-- ==== Sys2Proof/Word.lean ====
section
/-! DEFINITION. The two word types that the formats of the KW-416 are made of (spec Chapter 1). -/

namespace Sys2Proof

/-- One byte of a line unit. -/
abbrev Byte := BitVec 8

/-- A two-byte field, sent most significant byte first (R9). -/
abbrev Half := BitVec 16

end Sys2Proof
end

