-- ==== Sys2Proof/Syntax.lean ====
section
/-! DEFINITION. The commands of the KW-416: one constructor per row of spec/opcode_table.json, with its operands.
The lines of the ingress stream carry the header fields that mean something on ingress (Table 1.3) and their payload;
the other rows are events at pins, timers and transmitters. -/

namespace Sys2Proof

/-- The five legal line kinds (R3). -/
inductive LineKind where
  | openKind | pixelKind | infoKind | closeKind | controlKind
  deriving DecidableEq, Repr

/-- The fields of a sound header (Table 1.1), the reserved bits and the check left out: both carry nothing (R5). -/
structure LineHeader where
  kind : LineKind
  stream : BitVec 4
  depth : BitVec 2
  count : BitVec 13
  row : BitVec 12
  deriving DecidableEq, Repr

/-- An event that comes about while the slots of one row claim their places and blocks, between the turns of two slots
(R96; log entry 21, DEDUCED; unsafe): an event of an egress port, or a RESTART. -/
inductive RowEvent where
  /-- the completion of the port's transmission (R112) -/
  | completion (port : Fin 4)
  /-- the expiry of the hold timer of a HELD port, which stalls it (R116) -/
  | stall (port : Fin 4)
  /-- the expiry of the hold timer of a RECOVERING port (R117) -/
  | recoveryStall (port : Fin 4)
  /-- a change of the port's ready input (R114) -/
  | readyRise (port : Fin 4)
  | readyFall (port : Fin 4)
  /-- a RESTART taken (R150) -/
  | restart (tag : Byte)
  deriving DecidableEq, Repr

/-- What a PIXEL or an INFO line holds, with the events that come about while the slots take their turns at it, each before
the turn of the slot it names, in order (R96; log entry 21, DEDUCED; unsafe). -/
structure LineContent (α : Type) where
  items : List α
  during : List (Fin 16 × RowEvent)
  deriving DecidableEq, Repr

/-- The commands (rows of spec/opcode_table.json). A command of the command summary carries its tag and ALL its
argument bytes, whatever their number: the length is the interpreter's to check (R139; log entry 19, DEDUCED; safe). -/
inductive Instr where
  /-- HARD_RESET: the RESET pin or power-up, with the levels of the strap pins MSEL1 and MSEL0 (R121, R126; log entry 16, DESIGN
  CHOICE; safe). -/
  | hardReset (msel1 msel0 : Bool)
  /-- LOCK_GAINED (R21). -/
  | lockGained
  /-- LOCK_LOST (R22). -/
  | lockLost
  /-- HEADER_FAULT: a delivered line that fails tests 1 to 4 of Table 1.4 (R8, R23). -/
  | headerFault
  /-- TRAILER_FAILURE: a delivered line with a sound header that fails test 5 or 6 (R8, R24). -/
  | trailerFailure (header : LineHeader)
  /-- INGRESS_OPEN: a sound OPEN line (R30), its header's depth and its payload. -/
  | ingressOpen (depth : BitVec 2) (payload : List Byte)
  /-- INGRESS_PIXEL: a sound PIXEL line (R32). Each sample as received: one byte at depth 8, two bytes above,
  the bits above the depth still in place (R6; log entry 18, DEDUCED; safe), with the events between the
  slots' turns (R96). -/
  | ingressPixel (depth : BitVec 2) (row : BitVec 12) (samples : LineContent Half)
  /-- INGRESS_INFO: a sound INFO line (R35), with the events between the slots' turns (R97). -/
  | ingressInfo (payload : LineContent Byte)
  /-- INGRESS_CLOSE: a sound CLOSE line (R36). -/
  | ingressClose (payload : List Byte)
  /-- STRAY_CONTROL_LINE: a sound CONTROL line on a channel other than 0 (R26, R27, R29). -/
  | strayControlLine (channel : BitVec 4) (payload : List Byte)
  /-- SHORT_COMMAND_LINE: a sound CONTROL line on channel 0 with count below 2 (R138). -/
  | shortCommandLine (payload : List Byte)
  /-- UNKNOWN_COMMAND: a command line whose code is not in the command summary (R139). -/
  | unknownCommand (tag code : Byte) (args : List Byte)
  /-- ECHO, code 01h (R145). -/
  | echo (tag : Byte) (args : List Byte)
  /-- WRITE_ENTRY, code 10h (R49, R50). -/
  | writeEntry (tag : Byte) (args : List Byte)
  /-- READ_ENTRY, code 11h (R51). -/
  | readEntry (tag : Byte) (args : List Byte)
  /-- SELECT_BANK, code 12h (R52). -/
  | selectBank (tag : Byte) (args : List Byte)
  /-- ARM, code 20h (R81). -/
  | arm (tag : Byte) (args : List Byte)
  /-- DISARM, code 21h (R82). -/
  | disarm (tag : Byte) (args : List Byte)
  /-- SET_PORT, code 30h (R119, R120). -/
  | setPort (tag : Byte) (args : List Byte)
  /-- SET_LINE, code 40h (R131, R132). -/
  | setLine (tag : Byte) (args : List Byte)
  /-- SET_INGRESS, code 50h (R39). -/
  | setIngress (tag : Byte) (args : List Byte)
  /-- SET_EVENT, code 60h (R155). -/
  | setEvent (tag : Byte) (args : List Byte)
  /-- SET_NOTIFY, code 61h (R165). -/
  | setNotify (tag : Byte) (args : List Byte)
  /-- ACK, code 62h (R166). -/
  | ack (tag : Byte) (args : List Byte)
  /-- READ_STATUS, code 70h (R146). -/
  | readStatus (tag : Byte) (args : List Byte)
  /-- CLEAR_COUNTERS, code 71h (R148). -/
  | clearCounters (tag : Byte) (args : List Byte)
  /-- RESTART, code 7Fh (R150). -/
  | restart (tag : Byte) (args : List Byte)
  /-- FRAME_SILENCE_EXPIRY (R38). -/
  | frameSilenceExpiry
  /-- READY_RISE on RDYn (R114). -/
  | readyRise (port : Fin 4)
  /-- READY_FALL on RDYn (R114). -/
  | readyFall (port : Fin 4)
  /-- HOLD_TIMER_EXPIRY of a HELD port (R116). -/
  | holdTimerExpiry (port : Fin 4)
  /-- RECOVERY_HOLD_EXPIRY: the hold timer of a RECOVERING port (R117). -/
  | recoveryHoldExpiry (port : Fin 4)
  /-- TRANSMISSION_COMPLETE on a port (R112). -/
  | transmissionComplete (port : Fin 4)
  /-- RETRY_TIMER_EXPIRY of the unacknowledged entry that holds this sequence number (R162). -/
  | retryTimerExpiry (sequence : Byte)
  /-- TRIGGER_PIN_CHANGE: the level set from outside at pin TRGn changes to its other value (R128). -/
  | triggerPinChange (line : Fin 4)
  /-- FILTER_INTERVAL_EXPIRY of a trigger line (R128). -/
  | filterIntervalExpiry (line : Fin 4)
  /-- TRIGGER_EDGE: the slot controller takes the oldest accepted edge of a line (R83, R129). -/
  | triggerEdge (line : Fin 4)
  deriving DecidableEq, Repr

end Sys2Proof
end

