-- ==== Sys2Proof/Machine/Line.lean ====
section
/-! DEFINITION. The line protocol (spec Chapter 1, R1 to R9): headers, header check, sample packing, trailer, and the
judging of a received line. Used for what is received (Decode.lean) and for what is sent (Formats.lean). -/

namespace Sys2Proof.Machine

/-- The kind codes of Table 1.1 (R3). -/
def kindCode : LineKind → BitVec 3
  | .openKind => 0
  | .pixelKind => 1
  | .infoKind => 2
  | .closeKind => 3
  | .controlKind => 4

/-- The kind that a code names; 5, 6 and 7 are illegal (R3). -/
def kindOfCode (c : BitVec 3) : Option LineKind :=
  if c = 0 then some .openKind
  else if c = 1 then some .pixelKind
  else if c = 2 then some .infoKind
  else if c = 3 then some .closeKind
  else if c = 4 then some .controlKind
  else none

/-- A two-byte field, most significant byte first (R9). -/
def halfBytes (h : Half) : List Byte := [h.extractLsb' 8 8, h.extractLsb' 0 8]

/-- The two-byte field that two bytes spell (R9). -/
def halfOf (hi lo : Byte) : Half := hi ++ lo

/-- The 40 bits of header bytes 0 to 4: the six fields of Table 1.1, packed without gaps from the most significant
bit down; the reserved field is sent as zero (R3, R5). -/
def headerBits (h : LineHeader) : BitVec 40 :=
  kindCode h.kind ++ h.stream ++ h.depth ++ h.count ++ h.row ++ (0 : BitVec 6)

/-- Bytes 0 to 4 of 40 header bits, byte 0 the most significant (Table 1.2). -/
def bytesOfBits (b : BitVec 40) : List Byte :=
  [b.extractLsb' 32 8, b.extractLsb' 24 8, b.extractLsb' 16 8, b.extractLsb' 8 8, b.extractLsb' 0 8]

/-- The header check of header bytes 0 to 4: the complement of their exclusive-OR (R4). -/
def checkOf (bytes : List Byte) : Byte := ~~~(bytes.foldl (· ^^^ ·) 0)

/-- The six header bytes of a line sent (R3, R4). -/
def headerBytes (h : LineHeader) : List Byte :=
  bytesOfBits (headerBits h) ++ [checkOf (bytesOfBits (headerBits h))]

/-- The 40 bits that header bytes 0 to 4 spell (Table 1.2). -/
def bitsOfBytes (b0 b1 b2 b3 b4 : Byte) : BitVec 40 := b0 ++ b1 ++ b2 ++ b3 ++ b4

/-- The count field of 40 header bits (Table 1.2). -/
def countField (b : BitVec 40) : BitVec 13 := b.extractLsb' 18 13

/-- The header that 40 bits spell, where its kind is legal; the reserved bits are ignored (R3, R5). -/
def headerOfBits (b : BitVec 40) : Option LineHeader :=
  match kindOfCode (b.extractLsb' 37 3) with
  | none => none
  | some k => some ⟨k, b.extractLsb' 33 4, b.extractLsb' 31 2, countField b, b.extractLsb' 6 12⟩

/-- One of the eight shifts of the trailer's rule (R7). -/
def crcShift (v : Half) : Half :=
  if v.msb then (v <<< 1) ^^^ 0x1021 else v <<< 1

/-- One payload byte combined into the running value (R7). -/
def crcByte (v : Half) (b : Byte) : Half :=
  let v0 := v ^^^ (b ++ (0 : BitVec 8))
  crcShift (crcShift (crcShift (crcShift (crcShift (crcShift (crcShift (crcShift v0)))))))

/-- The trailer of a payload (R7). -/
def trailerOf (payload : List Byte) : Half := payload.foldl crcByte 0xffff

/-- Bytes per sample at a depth code (R6). -/
def sampleBytes (depth : BitVec 2) : Nat := if depth = 0 then 1 else 2

/-- The payload length in bytes of a line (R6). -/
def payloadLength (h : LineHeader) : Nat :=
  match h.kind with
  | .pixelKind => h.count.toNat * sampleBytes h.depth
  | _ => h.count.toNat

/-- The value of a received sample: the number in the low depth bits (R6). -/
def sampleValue (depth : BitVec 2) (x : Half) : Half :=
  if depth = 0 then x &&& 0x00ff
  else if depth = 1 then x &&& 0x03ff
  else if depth = 2 then x &&& 0x0fff
  else x

/-- One sample packed at a depth: one byte at depth 8, two bytes above, most significant first (R6). -/
def sampleToBytes (depth : BitVec 2) (x : Half) : List Byte :=
  if depth = 0 then [x.extractLsb' 0 8] else halfBytes x

/-- Samples packed in column order (R6). -/
def packSamples (depth : BitVec 2) (samples : List Half) : List Byte :=
  samples.flatMap (sampleToBytes depth)

/-- The two-byte samples of a payload, in column order (R6). -/
def pairSamples : List Byte → List Half
  | hi :: lo :: rest => halfOf hi lo :: pairSamples rest
  | _ => []

/-- The samples of a PIXEL payload, in column order, as they stand in it (R6). -/
def unpackSamples (depth : BitVec 2) (payload : List Byte) : List Half :=
  if depth = 0 then payload.map fun b => halfOf 0 b else pairSamples payload

/-- A whole line as it is sent: header, payload, trailer (R1, R4, R7). -/
def lineBytes (h : LineHeader) (payload : List Byte) : List Byte :=
  headerBytes h ++ payload ++ halfBytes (trailerOf payload)

/-- The three classes of a delivered line (R8). -/
inductive LineClass where
  | headerFault
  | trailerFailure (h : LineHeader)
  | sound (h : LineHeader) (payload : List Byte)
  deriving DecidableEq, Repr

/-- Tests 5 and 6 of Table 1.4 on the bytes after a sound header (R8). -/
def judgeBody (h : LineHeader) (body : List Byte) : LineClass :=
  if body.length = payloadLength h + 2 then
    let payload := body.take (payloadLength h)
    if body.drop (payloadLength h) = halfBytes (trailerOf payload) then .sound h payload
    else .trailerFailure h
  else .trailerFailure h

/-- The class of a delivered line: the tests of Table 1.4 in their order (R8). -/
def judgeLine : List Byte → LineClass
  | b0 :: b1 :: b2 :: b3 :: b4 :: b5 :: body =>
    if b5 ≠ checkOf [b0, b1, b2, b3, b4] then .headerFault
    else match headerOfBits (bitsOfBytes b0 b1 b2 b3 b4) with
      | none => .headerFault
      | some h => if h.count.toNat > 4096 then .headerFault else judgeBody h body
  | _ => .headerFault

end Sys2Proof.Machine
end

