-- ==== Sys2Proof/WellFormed.lean ====
section
/-! DEFINITION. Which commands can arrive: the limits that the line protocol and the row's own definition set on the
operands (R6, R8, R26, R138, R139). `exec` gives every command a meaning; these are the ones a lane can deliver. -/

namespace Sys2Proof

/-- The command codes of the command summary (Table 1.11). -/
def commandCodes : List Byte :=
  [0x01, 0x10, 0x11, 0x12, 0x20, 0x21, 0x30, 0x40, 0x50, 0x60, 0x61, 0x62, 0x70, 0x71, 0x7f]

/-- A payload of a kind other than PIXEL holds at most 4096 bytes (R6, Table 1.4 test 4). -/
def payloadFits (payload : List Byte) : Bool := payload.length ≤ 4096

/-- The argument bytes of a command line: count less 2 (R139), so at most 4094. -/
def argsFit (args : List Byte) : Bool := args.length ≤ 4094

/-- At depth 8 a sample travels as one byte; above it as two (R6). -/
def samplesFit (depth : BitVec 2) (samples : List Half) : Bool :=
  decide (samples.length ≤ 4096) && (depth != 0 || samples.all fun x => decide (x.toNat < 256))

/-- The operands are within what the line protocol can deliver for the row. -/
def Instr.wellFormed : Instr → Bool
  | .hardReset _ _ => true
  | .lockGained => true
  | .lockLost => true
  | .headerFault => true
  | .trailerFailure h => decide (h.count.toNat ≤ 4096)
  | .ingressOpen _ payload => payloadFits payload
  | .ingressPixel depth _ samples => samplesFit depth samples.items
  | .ingressInfo payload => payloadFits payload.items
  | .ingressClose payload => payloadFits payload
  | .strayControlLine channel payload => channel != 0 && payloadFits payload
  | .shortCommandLine payload => decide (payload.length < 2)
  | .unknownCommand _ code args => !commandCodes.contains code && argsFit args
  | .echo _ args => argsFit args
  | .writeEntry _ args => argsFit args
  | .readEntry _ args => argsFit args
  | .selectBank _ args => argsFit args
  | .arm _ args => argsFit args
  | .disarm _ args => argsFit args
  | .setPort _ args => argsFit args
  | .setLine _ args => argsFit args
  | .setIngress _ args => argsFit args
  | .setEvent _ args => argsFit args
  | .setNotify _ args => argsFit args
  | .ack _ args => argsFit args
  | .readStatus _ args => argsFit args
  | .clearCounters _ args => argsFit args
  | .restart _ args => argsFit args
  | .frameSilenceExpiry => true
  | .readyRise _ => true
  | .readyFall _ => true
  | .holdTimerExpiry _ => true
  | .recoveryHoldExpiry _ => true
  | .transmissionComplete _ => true
  | .retryTimerExpiry _ => true
  | .triggerPinChange _ => true
  | .filterIntervalExpiry _ => true
  | .triggerEdge _ => true

end Sys2Proof
end

