-- ==== Sys2Proof/Decode.lean ====
section
/-! DEFINITION. From the bytes of a delivered line to the command it is (R8, R15, R26 to R30, R138, R139), and back for
the lines a controller upstream can send. The rows of spec/opcode_table.json give no bits, so `decodeTableWord`
spells none of them. -/

namespace Sys2Proof

/-- No row of the opcode table has bits: no word spells a command. -/
def decodeTableWord (_nbits _w : Nat) : Option Instr := none

/-- The command of a code of the command summary (Table 1.11), or UNKNOWN_COMMAND (R139). -/
def commandOf (tag code : Byte) (args : List Byte) : Instr :=
  if code = 0x01 then .echo tag args
  else if code = 0x10 then .writeEntry tag args
  else if code = 0x11 then .readEntry tag args
  else if code = 0x12 then .selectBank tag args
  else if code = 0x20 then .arm tag args
  else if code = 0x21 then .disarm tag args
  else if code = 0x30 then .setPort tag args
  else if code = 0x40 then .setLine tag args
  else if code = 0x50 then .setIngress tag args
  else if code = 0x60 then .setEvent tag args
  else if code = 0x61 then .setNotify tag args
  else if code = 0x62 then .ack tag args
  else if code = 0x70 then .readStatus tag args
  else if code = 0x71 then .clearCounters tag args
  else if code = 0x7f then .restart tag args
  else .unknownCommand tag code args

/-- The command of a sound CONTROL line (R28, R29, R138, R139). -/
def controlOf (channel : BitVec 4) (payload : List Byte) : Instr :=
  if channel ≠ 0 then .strayControlLine channel payload
  else match payload with
    | tag :: code :: args => commandOf tag code args
    | short => .shortCommandLine short

/-- The command of a sound line (Table 2.3). -/
def soundLine (h : LineHeader) (payload : List Byte) : Instr :=
  match h.kind with
  | .openKind => .ingressOpen h.depth payload
  | .pixelKind => .ingressPixel h.depth h.row ⟨Machine.unpackSamples h.depth payload, []⟩
  | .infoKind => .ingressInfo ⟨payload, []⟩
  | .closeKind => .ingressClose payload
  | .controlKind => controlOf h.stream payload

/-- The command that the delivered bytes of one line are (R1, R8): total on any bytes. -/
def decodeLine (bytes : List Byte) : Instr :=
  match Machine.judgeLine bytes with
  | .headerFault => .headerFault
  | .trailerFailure h => .trailerFailure h
  | .sound h payload => soundLine h payload

/-- The bytes of a line of a kind other than PIXEL that a source sends: fields without a meaning are zero (R5). -/
def plainLine (kind : LineKind) (stream : BitVec 4) (depth : BitVec 2) (payload : List Byte) : List Byte :=
  Machine.lineBytes ⟨kind, stream, depth, BitVec.ofNat 13 payload.length, 0⟩ payload

/-- The bytes of a command line: a CONTROL line on channel 0 (R13). -/
def commandLine (tag code : Byte) (args : List Byte) : List Byte :=
  plainLine .controlKind 0 0 (tag :: code :: args)

/-- A line delivers a row with no event between the slots' turns; the events are no part of it (R96). -/
def lineAlone (during : List (Fin 16 × RowEvent)) (bytes : List Byte) : Option (List Byte) :=
  if during.isEmpty then some bytes else none

/-- The line that delivers a command, for the commands that are SOUND lines of the ingress stream. -/
def encodeLine : Instr → Option (List Byte)
  | .hardReset _ _ => none
  | .lockGained => none
  | .lockLost => none
  | .headerFault => none
  | .trailerFailure _ => none
  | .ingressOpen depth payload => some (plainLine .openKind 0 depth payload)
  | .ingressPixel depth row ⟨samples, during⟩ =>
    lineAlone during (Machine.lineBytes ⟨.pixelKind, 0, depth, BitVec.ofNat 13 samples.length, row⟩
      (Machine.packSamples depth samples))
  | .ingressInfo ⟨payload, during⟩ => lineAlone during (plainLine .infoKind 0 0 payload)
  | .ingressClose payload => some (plainLine .closeKind 0 0 payload)
  | .strayControlLine channel payload => some (plainLine .controlKind channel 0 payload)
  | .shortCommandLine payload => some (plainLine .controlKind 0 0 payload)
  | .unknownCommand tag code args => some (commandLine tag code args)
  | .echo tag args => some (commandLine tag 0x01 args)
  | .writeEntry tag args => some (commandLine tag 0x10 args)
  | .readEntry tag args => some (commandLine tag 0x11 args)
  | .selectBank tag args => some (commandLine tag 0x12 args)
  | .arm tag args => some (commandLine tag 0x20 args)
  | .disarm tag args => some (commandLine tag 0x21 args)
  | .setPort tag args => some (commandLine tag 0x30 args)
  | .setLine tag args => some (commandLine tag 0x40 args)
  | .setIngress tag args => some (commandLine tag 0x50 args)
  | .setEvent tag args => some (commandLine tag 0x60 args)
  | .setNotify tag args => some (commandLine tag 0x61 args)
  | .ack tag args => some (commandLine tag 0x62 args)
  | .readStatus tag args => some (commandLine tag 0x70 args)
  | .clearCounters tag args => some (commandLine tag 0x71 args)
  | .restart tag args => some (commandLine tag 0x7f args)
  | .frameSilenceExpiry => none
  | .readyRise _ => none
  | .readyFall _ => none
  | .holdTimerExpiry _ => none
  | .recoveryHoldExpiry _ => none
  | .transmissionComplete _ => none
  | .retryTimerExpiry _ => none
  | .triggerPinChange _ => none
  | .filterIntervalExpiry _ => none
  | .triggerEdge _ => none

end Sys2Proof
end

