-- ==== Sys2Proof/Config.lean ====
section
/-! DEFINITION. What the manual leaves open and the model leaves free: constants without a body. -/

namespace Sys2Proof

/-- FREE VALUE (log entry 3, DESIGN CHOICE; safe). R125 lets several ports raise PORT_STATE recovered within one RESTART and
gives no order among them; R157 orders only the events of ONE block. `Config.raisesBefore k p q` says
whether, in the free choice numbered `k`, port `p` raises before port `q`. -/
opaque Config.raisesBefore : Nat → Fin 4 → Fin 4 → Bool

end Sys2Proof
end

