-- ==== Sys2Proof/Machine/State.lean ====
section
/-! DEFINITION. The state of the KW-416, block by block (Table 0.1), the reasons a step can stop, and the state after
hard reset. Plain data throughout. Bounds that the manual gives as ranges are laws in Safety.lean, not types. -/

namespace Sys2Proof.Machine

/-- A timer: stopped, or running with the time it was last started with (ms, or µs for a trigger filter). The passing
of time is not counted down: an expiry is a command of its own (log entry 2, DESIGN CHOICE;
safe). -/
inductive Timer where
  | stopped
  | running (time : Nat)
  deriving DecidableEq, Repr

/-! ### Ingress receiver (Chapter 2) -/

/-- The four receiver states (section 2.1). -/
inductive ReceiverState where
  | noSignal | hunting | betweenFrames | inFrame
  deriving DecidableEq, Repr

/-- The ingress receiver's state (Table 2.1, R19). -/
structure Receiver where
  state : ReceiverState
  frameNumber : Half
  depth : BitVec 2
  /-- 0 to 4096 -/
  expectedRow : Nat
  /-- 0 to 4 -/
  infoCount : Nat
  silenceTimer : Timer
  /-- 1 to 255 ms -/
  silenceTimeout : Nat
  /-- the four counters, 0 to 65535 (R41) -/
  framesTaken : Nat
  framesAborted : Nat
  lineFaults : Nat
  strayLines : Nat
  deriving DecidableEq, Repr

/-! ### Window table (Chapter 3) -/

inductive CaptureMode where
  | continuous | armed
  deriving DecidableEq, Repr

/-- The rearm policy; RESTART here is the policy, not the command. -/
inductive RearmPolicy where
  | keep | restart
  deriving DecidableEq, Repr

/-- A row or column step: 1, 2 or 4 (Table 1.14). -/
inductive StepSize where
  | one | two | four
  deriving DecidableEq, Repr

/-- One window table entry (Table 3.1, R43). -/
structure Entry where
  enable : Bool
  mode : CaptureMode
  policy : RearmPolicy
  carryInfo : Bool
  topRow : Nat
  height : Nat
  leftColumn : Nat
  width : Nat
  port : Fin 4
  stream : BitVec 4
  rowStep : StepSize
  columnStep : StepSize
  /-- none is NONE; some n is TRGn -/
  trigger : Option (Fin 4)
  holdOff : Nat
  deriving DecidableEq, Repr

/-! ### Window slots (Chapter 4) -/

/-- The window-frame context (Table 4.2, R67). Its "reservation held" is yes exactly while the context exists
(log entry 14, DEDUCED; safe). -/
structure WindowContext where
  topRow : Nat
  height : Nat
  leftColumn : Nat
  width : Nat
  rowStep : StepSize
  columnStep : StepSize
  port : Fin 4
  stream : BitVec 4
  carryInfo : Bool
  expectedRows : Nat
  outputWidth : Nat
  lastCoveredRow : Nat
  openNumber : Half
  rowsDelivered : Nat
  clipped : Bool
  deficient : Bool
  deriving DecidableEq, Repr

/-- The slot states (section 4.1). The window-frame context exists exactly while the slot is ACTIVE (R67). -/
inductive SlotState where
  | off | unarmed | ready
  | active (context : WindowContext)
  deriving DecidableEq, Repr

/-- One slot (Table 4.1, R64). -/
structure Slot where
  state : SlotState
  /-- 0 to 15 -/
  armCount : Nat
  /-- 0 to 15 -/
  holdOff : Nat
  /-- the number of the NEXT window frame (R68) -/
  frameNumber : Half
  /-- counters, 0 to 65535 (R86) -/
  opened : Nat
  skipped : Nat
  deriving DecidableEq, Repr

/-! ### Records, lines and the line store (Chapters 1, 5 and 6) -/

/-- The completion codes (Table 1.8). -/
inductive CompletionCode where
  | complete | cut | aborted | abandoned
  deriving DecidableEq, Repr

/-- A block of the line store held by a record: its number, 0 to 1023, and the payload bytes placed in it, at most
128 (R93, R99; log entry 15, DESIGN CHOICE; safe). -/
structure Block where
  id : Nat
  bytes : List Byte
  deriving DecidableEq, Repr

/-- What a departure record is, with what it keeps of its own and the blocks it holds (R70, R77, R92, R97, R100). -/
inductive RecordBody where
  /-- an OPEN record: the depth of its header and the payload fields of Table 1.6 -/
  | openRecord (depth : BitVec 2) (windowNumber ingressNumber : Half) (outputWidth expectedRows : Nat)
      (slot : Fin 16) (bank : Fin 4)
  /-- a PIXEL record: depth, output row index, sample count, and its samples in blocks -/
  | pixelRecord (depth : BitVec 2) (outputRow count : Nat) (blocks : List Block)
  /-- an INFO record: byte count, and its bytes in blocks -/
  | infoRecord (count : Nat) (blocks : List Block)
  /-- a CLOSE record: the payload fields of Table 1.7 -/
  | closeRecord (windowNumber : Half) (code : CompletionCode) (clipped deficient : Bool) (rowsDelivered : Nat)
  deriving DecidableEq, Repr

/-- A record of a departure queue. -/
structure Record where
  stream : BitVec 4
  body : RecordBody
  deriving DecidableEq, Repr

/-- The result codes (Table 1.12). -/
inductive Result where
  | done | noChange | cancelled | badArgument | badLength | unknownCommand | bankLive | bankPending | busy
  | invalidTable | portInUse | mgmtPort | unknownSequence
  deriving DecidableEq, Repr

/-- What the owner of a command returns (R153): result, detail and data. -/
structure Reply where
  result : Result
  detail : Byte
  data : List Byte
  deriving DecidableEq, Repr

/-- A response (Table 1.10, R140). -/
structure Response where
  tag : Byte
  code : Byte
  reply : Reply
  deriving DecidableEq, Repr

/-- The event classes (Table 1.15). -/
inductive EventClass where
  | restarted | bankSwitched | signalChange | frameAborted | lineFault | windowDone | windowSkipped | segmentDropped
  | portState | triggerRefused | commandLost
  deriving DecidableEq, Repr

/-- The subject of an event (R17). -/
inductive Subject where
  | none
  | slot (i : Fin 16)
  | port (p : Fin 4)
  deriving DecidableEq, Repr

inductive Priority where
  | routine | urgent
  deriving DecidableEq, Repr

/-- The fields that every notification queue entry has, pending or not (Table 9.2). -/
structure PendingEntry where
  cls : EventClass
  subject : Subject
  priority : Priority
  /-- 1 to 255 -/
  repeatCount : Nat
  detail : Half
  frameNumber : Half
  deriving DecidableEq, Repr

/-- An unacknowledged entry: the fields above and those it takes at its first transmission (Table 9.2). -/
structure SentEntry where
  base : PendingEntry
  sequence : Byte
  lossCount : Nat
  retryCount : Nat
  due : Bool
  retryTimer : Timer
  inTransmission : Bool
  deriving DecidableEq, Repr

/-- A notification as sent (Table 1.16, R17). -/
structure Notification where
  sequence : Byte
  base : PendingEntry
  lossCount : Nat
  deriving DecidableEq, Repr

/-- A line on an egress lane group. -/
inductive EgressLine where
  /-- a record of the departure queue -/
  | departure (record : Record)
  /-- an ABANDONED close of a recovery (R118) -/
  | abandonedClose (stream : BitVec 4)
  | response (r : Response)
  | notification (n : Notification)
  deriving DecidableEq, Repr

/-- A line in transmission; `stale` marks one begun before the last hard reset (R126; log entry
17, DEDUCED; unsafe). -/
structure Transmission where
  line : EgressLine
  stale : Bool
  deriving DecidableEq, Repr

/-! ### Egress ports (Chapter 6) -/

inductive PortState where
  | disabled | idle | sending | held | stalled | recovering
  deriving DecidableEq, Repr

/-- One egress port (Table 6.1, R107), with its holding and ceiling in the line store (Table 5.2) and the level at its
ready pin RDYn (Table 0.3). -/
structure Port where
  enable : Bool
  ceiling : Nat
  holding : Nat
  holdTimeout : Nat
  state : PortState
  /-- the records waiting, oldest first -/
  queue : List Record
  transmission : Option Transmission
  reservations : Nat
  /-- bit i is stream id i -/
  openSet : BitVec 16
  holdTimer : Timer
  stallOutstanding : Bool
  /-- 0 to 4, used on the management port (R122) -/
  controlCount : Nat
  recordsSent : Nat
  rowsDropped : Nat
  ready : Bool
  deriving DecidableEq, Repr

/-! ### Line I/O (Chapter 7) -/

inductive LineMode where
  | input | outLatch | outWindow
  deriving DecidableEq, Repr

inductive EdgeSelect where
  | rising | falling | both
  deriving DecidableEq, Repr

/-- The filter times 0, 1, 10 and 100 µs (Table 1.13). -/
inductive FilterTime where
  | us0 | us1 | us10 | us100
  deriving DecidableEq, Repr

inductive ChangeDirection where
  | rising | falling
  deriving DecidableEq, Repr

/-- One trigger line (Table 7.1, R127), with the level set from outside at its pin. -/
structure TriggerLine where
  mode : LineMode
  edge : EdgeSelect
  filter : FilterTime
  latch : Bool
  boundSlot : Fin 16
  filteredLevel : Bool
  filterInterval : Timer
  /-- accepted trigger edges the slot controller has not taken, oldest first, 0 to 2 (R129) -/
  edges : List ChangeDirection
  /-- the level the outside sets at the pin; read in INPUT mode (R128, R131) -/
  pin : Bool
  deriving DecidableEq, Repr

/-- The fault line's two conditions (R134). -/
structure FaultConditions where
  silent : Bool
  portTrouble : Bool
  deriving DecidableEq, Repr

/-! ### Notification unit (Chapter 9) -/

/-- An event class's settings (R154). -/
structure ClassSetting where
  enable : Bool
  priority : Priority
  deriving DecidableEq, Repr

/-- The notification unit (Chapter 9). The one queue of R156 is held in two parts: the unacknowledged entries in the
order of their first transmissions and the pending entries in the order they joined (log entry 4, DEDUCED; safe). -/
structure NotifyUnit where
  /-- classes 01h to 0Bh in order -/
  settings : Vector ClassSetting 11
  sent : List SentEntry
  pending : List PendingEntry
  nextSequence : Byte
  /-- 0 to 255 (R158) -/
  lostCount : Nat
  retryInterval : Nat
  retryLimit : Nat
  /-- MANAGEMENT_SILENT (R163) -/
  silent : Bool
  deriving DecidableEq, Repr

/-! ### The whole part -/

/-- The state of the part. -/
structure State where
  /-- the lane receiver: locked or unlocked (R2) -/
  laneLocked : Bool
  receiver : Receiver
  /-- the four banks of sixteen entries (R43) -/
  banks : Vector (Vector Entry 16) 4
  activeBank : Fin 4
  pendingBank : Option (Fin 4)
  slots : Vector Slot 16
  /-- the free list of the line store, front first (R99) -/
  freeList : List Nat
  ports : Vector Port 4
  /-- the management port, fixed at hard reset (R121) -/
  mgmt : Fin 4
  /-- the strap pins as sampled at the last hard reset -/
  msel1 : Bool
  msel0 : Bool
  lines : Vector TriggerLine 4
  fault : FaultConditions
  /-- the response queue, head first (R141) -/
  responses : List Response
  notify : NotifyUnit
  /-- MODEL's own: how many free choices have been made (log entry 3) -/
  choices : Nat
  /-- MODEL's own: the commands waiting, first in first out (log entry 11) -/
  pending : List Instr
  deriving DecidableEq, Repr

/-- No command of the part ends in a fault: every command has a next state (log entry 1, DESIGN CHOICE; safe). The type is closed and has
no constructor. -/
inductive Fault where
  deriving DecidableEq, Repr

/-- The refusals. -/
inductive Refusal where
  /-- Raised by an arm of `exec` whose command has no meaning yet; no arm is left that raises it. Safe. -/
  | notModelled (mnemonic : String)
  deriving DecidableEq, Repr

/-! ### Hard-reset values -/

/-- The hard-reset entry (Table 3.1, R43). -/
def Entry.reset : Entry where
  enable := false
  mode := .continuous
  policy := .keep
  carryInfo := false
  topRow := 0
  height := 1
  leftColumn := 0
  width := 1
  port := 0
  stream := 0
  rowStep := .one
  columnStep := .one
  trigger := none
  holdOff := 0

/-- The receiver after hard reset (Table 2.1). -/
def Receiver.reset : Receiver where
  state := .noSignal
  frameNumber := 0
  depth := 0
  expectedRow := 0
  infoCount := 0
  silenceTimer := .stopped
  silenceTimeout := 40
  framesTaken := 0
  framesAborted := 0
  lineFaults := 0
  strayLines := 0

/-- A slot after hard reset (Table 4.1). -/
def Slot.reset : Slot where
  state := .off
  armCount := 0
  holdOff := 0
  frameNumber := 0
  opened := 0
  skipped := 0

/-- A port after a hard reset with no line in transmission and ready low (Table 6.1, R126). -/
def Port.reset : Port where
  enable := true
  ceiling := 256
  holding := 0
  holdTimeout := 100
  state := .held
  queue := []
  transmission := none
  reservations := 0
  openSet := 0
  holdTimer := .stopped
  stallOutstanding := false
  controlCount := 0
  recordsSent := 0
  rowsDropped := 0
  ready := false

/-- A trigger line after hard reset with its pin low (Table 7.1). -/
def TriggerLine.reset : TriggerLine where
  mode := .input
  edge := .rising
  filter := .us1
  latch := false
  boundSlot := 0
  filteredLevel := false
  filterInterval := .stopped
  edges := []
  pin := false

/-- The class settings after hard reset (Table 9.1). -/
def resetSettings : Vector ClassSetting 11 :=
  #v[⟨true, .urgent⟩, ⟨true, .urgent⟩, ⟨true, .urgent⟩, ⟨true, .routine⟩, ⟨true, .routine⟩, ⟨false, .routine⟩,
    ⟨true, .routine⟩, ⟨true, .routine⟩, ⟨true, .urgent⟩, ⟨true, .routine⟩, ⟨true, .urgent⟩]

/-- The RESTARTED entry of a hard reset (R170). -/
def PendingEntry.hardReset : PendingEntry where
  cls := .restarted
  subject := .none
  priority := .urgent
  repeatCount := 1
  detail := 0
  frameNumber := 0

/-- The notification unit after hard reset (R170). -/
def NotifyUnit.reset : NotifyUnit where
  settings := resetSettings
  sent := []
  pending := [PendingEntry.hardReset]
  nextSequence := 0
  lostCount := 0
  retryInterval := 20
  retryLimit := 4
  silent := false

/-- The block numbers of the line store, ascending (R99; the order is the model's, log entry 5, DESIGN CHOICE; safe). -/
def allBlocks : List Nat := List.range' 0 1024

/-- The part right after power-up, every input pin low (log entry 6, DESIGN CHOICE; unsafe): the lane receiver unlocked, bank 0 active, every
slot OFF, every port HELD and enabled, and RESTARTED waiting on the management port, port 0, whose hold timer has
started (R19, R60, R64, R99, R126, R127, R134, R144, R170, R171). -/
def State.reset : State where
  laneLocked := false
  receiver := Receiver.reset
  banks := Vector.replicate 4 (Vector.replicate 16 Entry.reset)
  activeBank := 0
  pendingBank := none
  slots := Vector.replicate 16 Slot.reset
  freeList := allBlocks
  ports := #v[{ Port.reset with holdTimer := .running 100 }, Port.reset, Port.reset, Port.reset]
  mgmt := 0
  msel1 := false
  msel0 := false
  lines := Vector.replicate 4 TriggerLine.reset
  fault := ⟨false, false⟩
  responses := []
  notify := NotifyUnit.reset
  choices := 0
  pending := []

end Sys2Proof.Machine
end

