-- ==== Sys2Proof/Machine/Flags.lean ====
section
/-! DEFINITION. The codes of the manual's tables and the conditions that are computed from the state rather than held
in it: settled states, covered rows, room on a port, the offer of the notification unit, the driven levels and FAULT. -/

namespace Sys2Proof.Machine

/-! ### Arithmetic the manual names -/

/-- "Rounded up" (section 0.5): the smallest whole number not less than the exact quotient. -/
def ceilDiv (n d : Nat) : Nat := (n + d - 1) / d

/-- A 16-bit saturating counter one higher (R41, R86, R123). -/
def satInc (n : Nat) : Nat := min (n + 1) 65535

def StepSize.toNat : StepSize → Nat
  | .one => 1
  | .two => 2
  | .four => 4

def Timer.isRunning : Timer → Bool
  | .stopped => false
  | .running _ => true

/-! ### Codes -/

/-- Completion codes (Table 1.8). -/
def CompletionCode.code : CompletionCode → Byte
  | .complete => 0
  | .cut => 1
  | .aborted => 2
  | .abandoned => 3

/-- Result codes (Table 1.12). -/
def Result.code : Result → Byte
  | .done => 0x00
  | .noChange => 0x01
  | .cancelled => 0x02
  | .badArgument => 0x10
  | .badLength => 0x11
  | .unknownCommand => 0x12
  | .bankLive => 0x20
  | .bankPending => 0x21
  | .busy => 0x22
  | .invalidTable => 0x23
  | .portInUse => 0x30
  | .mgmtPort => 0x31
  | .unknownSequence => 0x40

/-- The place of a class in the settings: its code of Table 1.15, less one. -/
def EventClass.index : EventClass → Fin 11
  | .restarted => 0
  | .bankSwitched => 1
  | .signalChange => 2
  | .frameAborted => 3
  | .lineFault => 4
  | .windowDone => 5
  | .windowSkipped => 6
  | .segmentDropped => 7
  | .portState => 8
  | .triggerRefused => 9
  | .commandLost => 10

/-- Class codes (Table 1.15). -/
def EventClass.code (c : EventClass) : Byte := BitVec.ofNat 8 (c.index.val + 1)

/-- The classes in the order of their codes. -/
def allClasses : List EventClass :=
  [.restarted, .bankSwitched, .signalChange, .frameAborted, .lineFault, .windowDone, .windowSkipped, .segmentDropped,
    .portState, .triggerRefused, .commandLost]

/-- The class that a code names (Table 1.15). -/
def EventClass.ofCode (b : Byte) : Option EventClass := allClasses.find? fun c => c.code = b

/-- The subject byte (R17). -/
def Subject.code : Subject → Byte
  | .none => 0xff
  | .slot i => BitVec.ofNat 8 i.val
  | .port p => BitVec.ofNat 8 (0x20 + p.val)

def Priority.code : Priority → Byte
  | .routine => 0
  | .urgent => 1

def boolCode (b : Bool) : Byte := if b then 1 else 0

/-- State codes of snapshots (Table 1.18). -/
def ReceiverState.code : ReceiverState → Byte
  | .noSignal => 0
  | .hunting => 1
  | .betweenFrames => 2
  | .inFrame => 3

def SlotState.code : SlotState → Byte
  | .off => 0
  | .unarmed => 1
  | .ready => 2
  | .active _ => 3

def PortState.code : PortState → Byte
  | .disabled => 0
  | .idle => 1
  | .sending => 2
  | .held => 3
  | .stalled => 4
  | .recovering => 5

def LineMode.code : LineMode → Byte
  | .input => 0
  | .outLatch => 1
  | .outWindow => 2

def EdgeSelect.code : EdgeSelect → Byte
  | .rising => 0
  | .falling => 1
  | .both => 2

def FilterTime.code : FilterTime → Byte
  | .us0 => 0
  | .us1 => 1
  | .us10 => 2
  | .us100 => 3

/-- The filter time in µs (Table 1.13). -/
def FilterTime.micros : FilterTime → Nat
  | .us0 => 0
  | .us1 => 1
  | .us10 => 10
  | .us100 => 100

/-! ### Slots -/

/-- The settled state of a slot that is not ACTIVE (R65). -/
def settledState (e : Entry) (armCount : Nat) : SlotState :=
  if !e.enable then .off
  else match e.mode with
    | .continuous => .ready
    | .armed => if armCount = 0 then .unarmed else .ready

def SlotState.isActive : SlotState → Bool
  | .active _ => true
  | _ => false

/-- The context of a slot, absent unless it is ACTIVE (R67). -/
def Slot.context (t : Slot) : Option WindowContext :=
  match t.state with
  | .active c => some c
  | _ => none

/-- Source row r is covered (R73). -/
def WindowContext.covers (c : WindowContext) (r : Nat) : Bool :=
  decide (c.topRow ≤ r) && decide (r < c.topRow + c.height) && (r - c.topRow) % c.rowStep.toNat == 0

/-- The output row index of a covered row (R73). -/
def WindowContext.outputRow (c : WindowContext) (r : Nat) : Nat := (r - c.topRow) / c.rowStep.toNat

/-- An entry that ARM, DISARM and trigger edges act on: enabled and ARMED (R81, R82, R83). -/
def Entry.isArmed (e : Entry) : Bool := e.enable && e.mode == .armed

/-! ### Ports -/

/-- The line is a record taken from the departure queue (R112). -/
def EgressLine.isDeparture : EgressLine → Bool
  | .departure _ => true
  | _ => false

/-- The blocks that a record holds (R99). -/
def Record.blocks (r : Record) : List Block :=
  match r.body with
  | .openRecord .. => []
  | .pixelRecord _ _ _ bs => bs
  | .infoRecord _ bs => bs
  | .closeRecord .. => []

/-- The numbers of the blocks that a line in transmission holds. -/
def EgressLine.blockIds : EgressLine → List Nat
  | .departure r => r.blocks.map (·.id)
  | _ => []

/-- The departure record in transmission, if there is one. -/
def Port.departing (p : Port) : List Record :=
  match p.transmission with
  | some t => match t.line with
    | .departure r => [r]
    | _ => []
  | none => []

/-- Every departure record that has a place: the one in transmission, then those waiting (section 6.2). -/
def Port.departures (p : Port) : List Record := p.departing ++ p.queue

/-- "Queued records": the records waiting plus the departure record in transmission (section 6.2). -/
def Port.queued (p : Port) : Nat := p.departures.length

/-- The block numbers held by a port's records, queued or in transmission (R99). -/
def Port.heldBlocks (p : Port) : List Nat := p.departures.flatMap fun r => r.blocks.map (·.id)

/-- A port is accepting in IDLE, SENDING and HELD (R110). -/
def Port.accepting (p : Port) : Bool :=
  match p.state with
  | .idle => true
  | .sending => true
  | .held => true
  | _ => false

/-- The lowest stream id of a set (R118). -/
def lowestStream (set : BitVec 16) : Option (BitVec 4) :=
  ((List.finRange 16).find? fun i => set.getLsbD i.val).map fun i => BitVec.ofNat 4 i.val

/-- The bit of a stream id in a set (R18). -/
def streamBit (id : BitVec 4) : BitVec 16 := 1#16 <<< id.toNat

/-- The departure work of a port: in RECOVERING an ABANDONED close owed for the lowest id of the open-stream set,
otherwise the head of the departure queue (R111, R118, R122). -/
def Port.departureOffer (p : Port) : Option EgressLine :=
  if p.state = .recovering then (lowestStream p.openSet).map .abandonedClose
  else p.queue.head?.map .departure

/-! ### Notification unit -/

/-- An entry as the notification unit may offer it: sent for the first time, or again (R160, R161). -/
inductive Offer where
  | first (e : PendingEntry)
  | again (e : SentEntry)
  deriving DecidableEq, Repr

/-- Some URGENT entry is unacknowledged (R159, condition 4). -/
def NotifyUnit.urgentSent (n : NotifyUnit) : Bool := n.sent.any fun e => e.base.priority == .urgent

/-- The oldest due entry of a priority that is not in transmission (R159 conditions 2 and 3, R160). -/
def NotifyUnit.dueEntry (n : NotifyUnit) (p : Priority) : Option Offer :=
  (n.sent.find? fun e => e.due && !e.inTransmission && e.base.priority == p).map .again

/-- The first pending entry of a priority, while fewer than 8 entries are unacknowledged (R159 condition 3, R160). -/
def NotifyUnit.pendingEntry (n : NotifyUnit) (p : Priority) : Option Offer :=
  if n.sent.length < 8 then (n.pending.find? fun e => e.priority == p).map .first else none

/-- The entry the unit offers: the first eligible one in the order of R160 (R159). -/
def NotifyUnit.offer (n : NotifyUnit) : Option Offer :=
  if n.silent then none
  else (n.dueEntry .urgent).or <| (n.pendingEntry .urgent).or <|
    if n.urgentSent then none else (n.dueEntry .routine).or (n.pendingEntry .routine)

/-! ### Whole-part conditions -/

/-- The responses outstanding, each holding a response place: the one in transmission on the management port, if there
is one, then the queue (R142). A response begun before a hard reset holds no place (R144). -/
def responseInTransmission (t : Option Transmission) : List Response :=
  match t with
  | some ⟨.response r, false⟩ => [r]
  | _ => []

def State.outstanding (s : State) : List Response :=
  responseInTransmission (s.ports[s.mgmt].transmission) ++ s.responses

/-- All sixteen response places are occupied (R142). -/
def State.responseQueueFull (s : State) : Bool := decide (16 ≤ s.outstanding.length)

/-- Work waiting on a port (R111, R115): a departure record, and on the management port also a response or an eligible
notification. -/
def State.workWaiting (s : State) (p : Fin 4) : Bool :=
  !s.ports[p].queue.isEmpty || (p == s.mgmt && (!s.responses.isEmpty || s.notify.offer.isSome))

/-- The conditions under which a port's hold timer runs, its timeout being above 0 (R115). -/
def State.holdCondition (s : State) (p : Fin 4) : Bool :=
  let q := s.ports[p]
  match q.state with
  | .held => s.workWaiting p
  | .recovering => !q.ready && q.transmission.isNone
  | _ => false

/-- The level the part drives on a line in an output mode (R130). -/
def State.drivenLevel (s : State) (l : TriggerLine) : Bool :=
  match l.mode with
  | .input => false
  | .outLatch => l.latch
  | .outWindow => s.slots[l.boundSlot].state.isActive

/-- The level reported in the LINES snapshot (Table 7.2, R133). -/
def State.reportedLevel (s : State) (l : TriggerLine) : Bool :=
  match l.mode with
  | .input => l.filteredLevel
  | _ => s.drivenLevel l

/-- The FAULT pin: asserted while either condition is yes (R134). -/
def State.faultPin (s : State) : Bool := s.fault.silent || s.fault.portTrouble

end Sys2Proof.Machine
end

