-- ==== Sys2Proof/Machine/Ops.lean ====
section
/-! DEFINITION. The named operations over the state: reading and writing one slot, port, line or entry; raising an
event; the line store; the departure queue; and how a window frame ends. -/

namespace Sys2Proof.Machine

/-! ### Reading and writing parts of the state -/

def State.slot (s : State) (i : Fin 16) : Slot := s.slots[i]
def State.setSlot (s : State) (i : Fin 16) (t : Slot) : State := { s with slots := s.slots.set i.val t }
def State.port (s : State) (p : Fin 4) : Port := s.ports[p]
def State.setPort (s : State) (p : Fin 4) (q : Port) : State := { s with ports := s.ports.set p.val q }
def State.line (s : State) (n : Fin 4) : TriggerLine := s.lines[n]
def State.setLine (s : State) (n : Fin 4) (l : TriggerLine) : State := { s with lines := s.lines.set n.val l }
def State.entry (s : State) (b : Fin 4) (i : Fin 16) : Entry := s.banks[b][i]
def State.setEntry (s : State) (b : Fin 4) (i : Fin 16) (e : Entry) : State :=
  { s with banks := s.banks.set b.val (s.banks[b].set i.val e) }

/-- Entry i of the active bank, which governs slot i (R47). -/
def State.governing (s : State) (i : Fin 16) : Entry := s.entry s.activeBank i

def State.setReceiver (s : State) (r : Receiver) : State := { s with receiver := r }
def State.setNotify (s : State) (n : NotifyUnit) : State := { s with notify := n }

/-- The slots in ascending index. -/
def allSlots : List (Fin 16) := List.finRange 16

/-- The ports in ascending index. -/
def allPorts : List (Fin 4) := List.finRange 4

/-- Each slot in ascending index, each acting on the state as the ones before it left it (R74, R96). -/
def forSlots (f : Fin 16 → State → State) (s : State) : State := allSlots.foldl (fun s i => f i s) s

/-- Each port in ascending index. -/
def forPorts (f : Fin 4 → State → State) (s : State) : State := allPorts.foldl (fun s p => f p s) s

/-! ### Events (R154, R157, R158) -/

/-- Two events fold into one entry when class and subject agree (R157). -/
def PendingEntry.sameKey (a b : PendingEntry) : Bool := a.cls == b.cls && a.subject == b.subject

/-- An event coalesced into a pending entry: one more repeat, staying at 255, and the event's detail and frame number
(R157). -/
def PendingEntry.coalesce (e ev : PendingEntry) : PendingEntry :=
  { e with repeatCount := min (e.repeatCount + 1) 255, detail := ev.detail, frameNumber := ev.frameNumber }

/-- The entries the queue holds (R156). -/
def NotifyUnit.occupancy (n : NotifyUnit) : Nat := n.sent.length + n.pending.length

/-- The notification unit takes an event of an enabled class: coalesced, appended or lost (R157, R158). -/
def NotifyUnit.take (n : NotifyUnit) (ev : PendingEntry) : NotifyUnit :=
  if n.pending.any (·.sameKey ev) then
    { n with pending := n.pending.map fun e => if e.sameKey ev then e.coalesce ev else e }
  else if n.occupancy < 32 then { n with pending := n.pending ++ [ev] }
  else { n with lostCount := min (n.lostCount + 1) 255 }

def NotifyUnit.setting (n : NotifyUnit) (c : EventClass) : ClassSetting := n.settings[c.index]

/-- The event that a block raises now: the class's priority and the receiver's frame number as they stand (R20, R154). -/
def State.eventOf (s : State) (c : EventClass) (subject : Subject) (hi lo : Byte) : PendingEntry where
  cls := c
  subject := subject
  priority := (s.notify.setting c).priority
  repeatCount := 1
  detail := hi ++ lo
  frameNumber := s.receiver.frameNumber

/-- A block raises an event; one of a class whose enable is no is ignored (R154). -/
def raiseEvent (c : EventClass) (subject : Subject) (hi lo : Byte) (s : State) : State :=
  if (s.notify.setting c).enable then s.setNotify (s.notify.take (s.eventOf c subject hi lo)) else s

/-! ### The line store (section 5.4) -/

/-- Blocks returned to the tail of the free list; the port's holding falls by their number (R101, R102). -/
def returnBlocks (p : Fin 4) (ids : List Nat) (s : State) : State :=
  { s.setPort p { s.port p with holding := (s.port p).holding - ids.length } with freeList := s.freeList ++ ids }

/-- Why a record was not enqueued (R93): its cause code in SEGMENT_DROPPED (Table 1.15). -/
def causeQueueFull : Byte := 2
def causeNoBlock : Byte := 3

/-- The line store's allocation rule (R100): the blocks taken and the state after, or none. -/
def allocate (p : Fin 4) (k : Nat) (s : State) : Option (List Nat × State) :=
  if k = 0 then some ([], s)
  else if k ≤ s.freeList.length ∧ (s.port p).holding + k ≤ (s.port p).ceiling then
    some (s.freeList.take k,
      { s.setPort p { s.port p with holding := (s.port p).holding + k } with freeList := s.freeList.drop k })
  else none

/-- The two enqueue conditions in order: an unreserved place, then the blocks (R93). The place and the blocks are
claimed together. -/
def claim (p : Fin 4) (k : Nat) (s : State) : Except Byte (List Nat × State) :=
  if (s.port p).queued + (s.port p).reservations < 128 then
    match allocate p k s with
    | some granted => .ok granted
    | none => .error causeNoBlock
  else .error causeQueueFull

/-- Payload bytes placed in blocks, `size` bytes a block (R93). -/
def fillBlocks (size : Nat) : List Nat → List Byte → List Block
  | [], _ => []
  | id :: ids, bytes => ⟨id, bytes.take size⟩ :: fillBlocks size ids (bytes.drop size)

/-- A record joins the tail of a port's departure queue (R108). -/
def enqueue (p : Fin 4) (r : Record) (s : State) : State :=
  s.setPort p { s.port p with queue := (s.port p).queue ++ [r] }

/-- Every waiting record is removed and its blocks returned; the record in transmission stays (R102, R116, R125). -/
def flushQueue (p : Fin 4) (s : State) : State :=
  let ids := (s.port p).queue.flatMap fun r => r.blocks.map (·.id)
  let s := returnBlocks p ids s
  s.setPort p { s.port p with queue := [] }

/-! ### How a window frame ends (section 4.5) -/

/-- A slot takes its settled state under the active bank (R65). -/
def settleSlot (i : Fin 16) (s : State) : State :=
  s.setSlot i { s.slot i with state := settledState (s.governing i) (s.slot i).armCount }

/-- A reservation is released, or its place taken by the CLOSE (R109). -/
def releaseReservation (p : Fin 4) (s : State) : State :=
  s.setPort p { s.port p with reservations := (s.port p).reservations - 1 }

/-- The detail of WINDOW_DONE: the completion code in bits 15 to 13, the rows delivered in bits 12 to 0
(Table 1.15). -/
def windowDoneDetail (code : CompletionCode) (rows : Nat) : Half :=
  code.code.extractLsb' 0 3 ++ BitVec.ofNat 13 rows

/-- The CLOSE record of a context (R77 step 1). -/
def WindowContext.closeRecord (c : WindowContext) (code : CompletionCode) : Record :=
  ⟨c.stream, .closeRecord c.openNumber code c.clipped c.deficient c.rowsDelivered⟩

/-- A window frame ends with its CLOSE: the record takes the reserved place, WINDOW_DONE is raised, the context goes
and the slot settles (R77). A slot that is not ACTIVE is not touched. -/
def endWindow (code : CompletionCode) (i : Fin 16) (s : State) : State :=
  match (s.slot i).state with
  | .active c =>
    let d := windowDoneDetail code c.rowsDelivered
    settleSlot i
      (raiseEvent .windowDone (.slot i) (d.extractLsb' 8 8) (d.extractLsb' 0 8)
        (releaseReservation c.port (enqueue c.port (c.closeRecord code) s)))
  | _ => s

/-- A window frame ends without a CLOSE, at a stall or a RESTART: the reservation is released, the context goes and the
slot settles (R80, R88). -/
def endSilently (i : Fin 16) (s : State) : State :=
  match (s.slot i).state with
  | .active c => settleSlot i (releaseReservation c.port s)
  | _ => s

/-- A slot reset (R66). -/
def resetSlot (i : Fin 16) (s : State) : State :=
  s.setSlot i
    { s.slot i with armCount := 0, holdOff := 0, frameNumber := 0, state := settledState (s.governing i) 0 }

/-- The fault line's copy of MANAGEMENT_SILENT takes a report (R134). -/
def reportSilent (b : Bool) (s : State) : State := { s with fault := { s.fault with silent := b } }

/-- The fault line's port trouble takes a report of the management port (R134). -/
def reportTrouble (b : Bool) (s : State) : State := { s with fault := { s.fault with portTrouble := b } }

end Sys2Proof.Machine
end

