-- ==== Sys2Proof/Machine/Transmit.lean ====
section
/-! DEFINITION. The egress transmitters (section 6.3): what a port sends next, how a transmission begins, and how the
ports settle at the end of every step, and within a row at each slot's turn: a port that may begin a line begins it, and
each hold timer runs exactly while its conditions hold (R96, R111, R115, R122; log entries 7 and 8, DEDUCED; unsafe). -/

namespace Sys2Proof.Machine

/-- The three waiting sources of the management port's transmitter (R122); the other ports have the first alone. -/
inductive Source where
  | departure (line : EgressLine)
  | response (r : Response)
  | notification (o : Offer)
  deriving DecidableEq, Repr

/-- The arbiter of the management port: the first rule of R122 that applies. -/
def arbiterChoice (s : State) (p : Fin 4) : Option Source :=
  let departure := (s.port p).departureOffer.map Source.departure
  let control := (s.responses.head?.map Source.response).or (s.notify.offer.map Source.notification)
  if (s.port p).controlCount = 4 then departure.or control else control.or departure

/-- What a port sends next, if anything (R111). -/
def nextSource (s : State) (p : Fin 4) : Option Source :=
  if p = s.mgmt then arbiterChoice s p else (s.port p).departureOffer.map .departure

/-- The entry as it stands once its first transmission has begun (R161). -/
def NotifyUnit.firstSent (n : NotifyUnit) (e : PendingEntry) : SentEntry where
  base := e
  sequence := n.nextSequence
  lossCount := n.lostCount
  retryCount := 0
  due := false
  retryTimer := .stopped
  inTransmission := true

/-- The unit's part of the beginning of a notification's transmission (R161). -/
def NotifyUnit.begin (n : NotifyUnit) (o : Offer) : NotifyUnit :=
  match o with
  | .first e =>
    { n with
      pending := n.pending.erase e
      sent := n.sent ++ [n.firstSent e]
      nextSequence := n.nextSequence + 1
      lostCount := 0 }
  | .again e =>
    { n with sent := n.sent.map fun x =>
        if x.sequence = e.sequence then { x with due := false, inTransmission := true } else x }

/-- The line sent for an offer (R17, R161). -/
def NotifyUnit.lineOf (n : NotifyUnit) (o : Offer) : EgressLine :=
  match o with
  | .first e => .notification ⟨n.nextSequence, e, n.lostCount⟩
  | .again e => .notification ⟨e.sequence, e.base, e.lossCount⟩

/-- The line that a source sends. -/
def sourceLine (s : State) : Source → EgressLine
  | .departure l => l
  | .response r => .response r
  | .notification o => s.notify.lineOf o

/-- What the source gives up when its line begins: the head of its queue, or nothing for an ABANDONED close, whose
content is made at the beginning (R108, R118, R141, R161). -/
def takeFromSource (p : Fin 4) (src : Source) (s : State) : State :=
  match src with
  | .departure (.departure _) => s.setPort p { s.port p with queue := (s.port p).queue.tail }
  | .departure _ => s
  | .response _ => { s with responses := s.responses.tail }
  | .notification o => s.setNotify (s.notify.begin o)

/-- The control count after a line has begun (R122). -/
def Source.countAfter (src : Source) (count : Nat) : Nat :=
  match src with
  | .departure _ => 0
  | .response _ => min (count + 1) 4
  | .notification _ => min (count + 1) 4

/-- A port begins a transmission (R111, R122): an IDLE port passes to SENDING, a RECOVERING one stays. -/
def beginLine (p : Fin 4) (src : Source) (s : State) : State :=
  let t := takeFromSource p src s
  t.setPort p
    { t.port p with
      transmission := some ⟨sourceLine s src, false⟩
      state := if (t.port p).state = .idle then .sending else (t.port p).state
      controlCount := src.countAfter (t.port p).controlCount }

/-- The states in which a port that has work, ready high and no line in transmission begins its next line; a SENDING
or HELD port has passed through IDLE when it comes to that (R111, R112, R114). -/
def Port.mayBegin (q : Port) : Bool :=
  (q.state == .idle || q.state == .recovering) && q.ready && q.transmission.isNone

/-- A port that may begin a line does (R111). -/
def beginIfWaiting (p : Fin 4) (s : State) : State :=
  if (s.port p).mayBegin then
    match nextSource s p with
    | some src => beginLine p src s
    | none => s
  else s

/-- The hold timer of a port against its conditions: it keeps running, starts with the full hold timeout, or stops; with
a hold timeout of 0 it does not run (R115). -/
def syncHoldTimer (p : Fin 4) (s : State) : State :=
  let q := s.port p
  let timer :=
    if s.holdCondition p && decide (0 < q.holdTimeout) then
      if q.holdTimer.isRunning then q.holdTimer else .running q.holdTimeout
    else .stopped
  s.setPort p { q with holdTimer := timer }

/-- One port settles. -/
def settlePort (p : Fin 4) (s : State) : State := syncHoldTimer p (beginIfWaiting p s)

/-- The four ports settle, at the end of a step and at each slot's turn in a row (R96, R111; log entry 7, DEDUCED;
unsafe). -/
def settle (s : State) : State := forPorts settlePort s

/-- How a step ends: after its effect the four transmitters settle. An event that cannot reach its block in the present
state, by the manual's own words, has no effect and leaves the state as it is (`none`; log entry 1, DESIGN CHOICE; safe). -/
def conclude (s : State) : Option State → Host.Outcome State Fault Refusal
  | some t => .next (settle t)
  | none => .next s

/-- The end of a recovery (R118): the port takes its next state and, with ready high and work waiting, begins a line; a
stall outstanding is reported as recovered; the management port reports to the line I/O unit. That the line
begins before the report is raised is log entry 13 (DEDUCED; unsafe). -/
def endRecovery (p : Fin 4) (s : State) : State :=
  let s := s.setPort p { s.port p with state := if (s.port p).ready then .idle else .held }
  let s := settlePort p s
  let s :=
    if (s.port p).stallOutstanding then
      raiseEvent .portState (.port p) 2 0 (s.setPort p { s.port p with stallOutstanding := false })
    else s
  if p = s.mgmt then reportTrouble false s else s

/-- Recovery ends when the open-stream set is empty and no line is in transmission (R118). -/
def endRecoveryIfDone (p : Fin 4) (s : State) : State :=
  if (s.port p).openSet = 0 ∧ (s.port p).transmission = none then endRecovery p s else s

end Sys2Proof.Machine
end

