-- ==== Sys2Proof/Machine/Formats.lean ====
section
/-! DEFINITION. The payloads and whole lines that the part sends (R11, R12, R13, R17), and the snapshots of READ_STATUS
(R18). -/

namespace Sys2Proof.Machine

/-- A number in a two-byte field (R9). -/
def natHalf (n : Nat) : List Byte := halfBytes (BitVec.ofNat 16 n)

/-- A number in a one-byte field. -/
def natByte (n : Nat) : Byte := BitVec.ofNat 8 n

/-- The egress OPEN payload (Table 1.6). -/
def openPayload (windowNumber ingressNumber : Half) (outputWidth expectedRows : Nat) (slot : Fin 16) (bank : Fin 4) :
    List Byte :=
  halfBytes windowNumber ++ halfBytes ingressNumber ++ natHalf outputWidth ++ natHalf expectedRows
    ++ [natByte slot.val, natByte bank.val]

/-- The flags byte of a CLOSE: CLIPPED in bit 0, DEFICIENT in bit 1 (R11). -/
def closeFlags (clipped deficient : Bool) : Byte := boolCode clipped ||| (boolCode deficient <<< 1)

/-- The egress CLOSE payload (Table 1.7). -/
def closePayload (windowNumber : Half) (code : CompletionCode) (clipped deficient : Bool) (rows : Nat) : List Byte :=
  halfBytes windowNumber ++ [code.code, closeFlags clipped deficient] ++ natHalf rows

/-- The payload that a record is sent with (R11, R12): the blocks' bytes, in order, for PIXEL and INFO. -/
def Record.payload (r : Record) : List Byte :=
  match r.body with
  | .openRecord _ wn n w rows slot bank => openPayload wn n w rows slot bank
  | .pixelRecord _ _ _ bs => bs.flatMap (·.bytes)
  | .infoRecord _ bs => bs.flatMap (·.bytes)
  | .closeRecord wn code c d rows => closePayload wn code c d rows

/-- The header that a record is sent with (Table 1.3, R12). -/
def Record.header (r : Record) : LineHeader :=
  match r.body with
  | .openRecord depth .. => ⟨.openKind, r.stream, depth, 10, 0⟩
  | .pixelRecord depth row count _ => ⟨.pixelKind, r.stream, depth, BitVec.ofNat 13 count, BitVec.ofNat 12 row⟩
  | .infoRecord count _ => ⟨.infoKind, r.stream, 0, BitVec.ofNat 13 count, 0⟩
  | .closeRecord .. => ⟨.closeKind, r.stream, 0, 6, 0⟩

/-- The payload of an ABANDONED close (R11, R118). -/
def abandonedPayload : List Byte := closePayload 0 .abandoned false false 0

/-- A response payload (Table 1.10). -/
def Response.payload (r : Response) : List Byte :=
  [r.tag, r.code, r.reply.result.code, r.reply.detail] ++ r.reply.data

/-- A notification payload (Table 1.16). -/
def Notification.payload (n : Notification) : List Byte :=
  [n.sequence, n.base.cls.code, n.base.priority.code, natByte n.base.repeatCount, n.base.subject.code,
    natByte n.lossCount] ++ halfBytes n.base.frameNumber ++ halfBytes n.base.detail

/-- The header of an egress CONTROL line: the channel, depth 0, row 0 (Table 1.3, R141, R161). -/
def controlHeader (channel : BitVec 4) (payload : List Byte) : LineHeader :=
  ⟨.controlKind, channel, 0, BitVec.ofNat 13 payload.length, 0⟩

/-- The header of a line on an egress lane group. -/
def EgressLine.header : EgressLine → LineHeader
  | .departure r => r.header
  | .abandonedClose id => ⟨.closeKind, id, 0, 6, 0⟩
  | .response r => controlHeader 0 r.payload
  | .notification n => controlHeader 1 n.payload

/-- The payload of a line on an egress lane group. -/
def EgressLine.payload : EgressLine → List Byte
  | .departure r => r.payload
  | .abandonedClose _ => abandonedPayload
  | .response r => r.payload
  | .notification n => n.payload

/-- The bytes of a line on an egress lane group (R1, R4, R7). -/
def EgressLine.bytes (l : EgressLine) : List Byte := lineBytes l.header l.payload

/-! ### Snapshots (Table 1.17) -/

def ingressSnapshot (s : State) : List Byte :=
  let r := s.receiver
  [r.state.code] ++ halfBytes r.frameNumber ++ [r.depth.setWidth 8] ++ natHalf r.expectedRow
    ++ [natByte r.infoCount, natByte r.silenceTimeout] ++ natHalf r.framesTaken ++ natHalf r.framesAborted
    ++ natHalf r.lineFaults ++ natHalf r.strayLines

def tableSnapshot (s : State) : List Byte :=
  [natByte s.activeBank.val, match s.pendingBank with
    | some b => natByte b.val
    | none => 0xff]

def slotSnapshot (t : Slot) : List Byte :=
  [t.state.code, natByte t.armCount, natByte t.holdOff] ++ halfBytes t.frameNumber ++ natHalf t.opened
    ++ natHalf t.skipped

def slotsSnapshot (s : State) : List Byte := (List.finRange 16).flatMap fun i => slotSnapshot s.slots[i]

def lineSnapshot (s : State) (l : TriggerLine) : List Byte :=
  [l.mode.code, l.edge.code, l.filter.code, boolCode l.latch, natByte l.boundSlot.val, boolCode (s.reportedLevel l)]

def linesSnapshot (s : State) : List Byte :=
  ((List.finRange 4).flatMap fun n => lineSnapshot s s.lines[n]) ++ [boolCode s.faultPin]

/-- The NOTIFY snapshot; its MANAGEMENT_SILENT field tells whether the condition held when the command arrived
(R168). -/
def notifySnapshot (wasSilent : Bool) (s : State) : List Byte :=
  let n := s.notify
  [n.nextSequence, natByte n.lostCount, natByte n.retryInterval, natByte n.retryLimit, boolCode wasSilent,
    natByte n.pending.length, natByte n.sent.length]
    ++ (List.finRange 11).flatMap fun c => [boolCode n.settings[c].enable, n.settings[c].priority.code]

def portSnapshot (p : Fin 4) (s : State) : List Byte :=
  let q := s.ports[p]
  [q.state.code, boolCode q.enable] ++ natHalf q.ceiling ++ natHalf q.holdTimeout
    ++ [natByte q.queued, natByte q.reservations] ++ natHalf q.holding ++ halfBytes q.openSet
    ++ natHalf q.recordsSent ++ natHalf q.rowsDropped ++ natHalf s.freeList.length

end Sys2Proof.Machine
end

