-- ==== Sys2Proof/Machine/Windows.lean ====
section
/-! DEFINITION. What happens to window frames as the ingress frame goes by: the bank switch and the openings at frame
start, taken and missed rows, INFO lines, frame end and frame abort (Chapters 3, 4 and 5). -/

namespace Sys2Proof.Machine

/-! ### Frame start (R55, R69 to R71) -/

/-- The switch of a pending bank: banks exchanged, every slot reset, BANK_SWITCHED raised (R55, R57). -/
def switchBank (s : State) : State :=
  match s.pendingBank with
  | none => s
  | some b =>
    raiseEvent .bankSwitched .none (natByte b.val) 0
      (forSlots resetSlot { s with activeBank := b, pendingBank := none })

/-- The hold-off counter of one slot counts a frame start (R69). -/
def countHoldOff (i : Fin 16) (s : State) : State :=
  s.setSlot i { s.slot i with holdOff := (s.slot i).holdOff - 1 }

/-- The context of a window frame opened under an entry (Table 4.2). -/
def Entry.openContext (e : Entry) (openNumber : Half) : WindowContext :=
  let expectedRows := ceilDiv e.height e.rowStep.toNat
  { topRow := e.topRow
    height := e.height
    leftColumn := e.leftColumn
    width := e.width
    rowStep := e.rowStep
    columnStep := e.columnStep
    port := e.port
    stream := e.stream
    carryInfo := e.carryInfo
    expectedRows
    outputWidth := ceilDiv e.width e.columnStep.toNat
    lastCoveredRow := e.topRow + (expectedRows - 1) * e.rowStep.toNat
    openNumber
    rowsDelivered := 0
    clipped := false
    deficient := false }

/-- The OPEN record of a context, cut from the present ingress frame (R70 step 2). -/
def State.openRecord (s : State) (i : Fin 16) (c : WindowContext) : Record :=
  ⟨c.stream, .openRecord s.receiver.depth c.openNumber s.receiver.frameNumber c.outputWidth c.expectedRows i
    s.activeBank⟩

/-- The slot after a granted opening (R70 steps 1 and 4 to 6). -/
def Slot.opening (t : Slot) (e : Entry) : Slot where
  state := .active (e.openContext t.frameNumber)
  armCount := if e.mode = .armed then t.armCount - 1 else t.armCount
  holdOff := if e.mode = .armed then e.holdOff else t.holdOff
  frameNumber := t.frameNumber + 1
  opened := satInc t.opened
  skipped := t.skipped

/-- A granted opening (R70). -/
def grantOpening (i : Fin 16) (s : State) : State :=
  let e := s.governing i
  let t := s.slot i
  let q := s.port e.port
  let s := s.setPort e.port
    { q with queue := q.queue ++ [s.openRecord i (e.openContext t.frameNumber)], reservations := q.reservations + 1 }
  s.setSlot i (t.opening e)

/-- A refused opening: the slot stays READY, the skip is counted and reported (R71). -/
def refuseOpening (reason : Byte) (i : Fin 16) (s : State) : State :=
  raiseEvent .windowSkipped (.slot i) reason (natByte (s.governing i).port.val)
    (s.setSlot i { s.slot i with skipped := satInc (s.slot i).skipped })

/-- One slot asks for an opening if it is READY (R70, R71). -/
def askOpening (i : Fin 16) (s : State) : State :=
  if (s.slot i).state = .ready then
    let q := s.port (s.governing i).port
    if !q.accepting then refuseOpening 1 i s
    else if q.queued + q.reservations ≤ 126 then grantOpening i s
    else refuseOpening 2 i s
  else s

/-- Frame start as the window table and the slot controller act on it: switch, hold-off decrease, openings (R55, R56,
R69, R70). -/
def announceFrameStart (s : State) : State :=
  forSlots askOpening (forSlots countHoldOff (switchBank s))

/-! ### Rows (R74 to R76, R89 to R95) -/

/-- The slot's context with a change, while it is ACTIVE. -/
def updateContext (i : Fin 16) (f : WindowContext → WindowContext) (s : State) : State :=
  match (s.slot i).state with
  | .active c => s.setSlot i { s.slot i with state := .active (f c) }
  | _ => s

/-- The end test after a row has been processed for a slot (R76). -/
def endTest (r : Nat) (i : Fin 16) (s : State) : State :=
  match (s.slot i).state with
  | .active c => if c.lastCoveredRow ≤ r then endWindow .complete i s else s
  | _ => s

/-- A missed row for one slot (R75). -/
def missSlot (r : Nat) (i : Fin 16) (s : State) : State :=
  match (s.slot i).state with
  | .active c =>
    endTest r i (if c.covers r then updateContext i (fun c => { c with deficient := true }) s else s)
  | _ => s

/-- A missed row (R75). -/
def missRow (r : Nat) (s : State) : State := forSlots (missSlot r) s

/-- Rows `first` to `first + count - 1` announced as missed, in ascending order (R75). -/
def missRows (first count : Nat) (s : State) : State := (List.range' first count).foldl (fun s r => missRow r s) s

/-- Every `step`-th element, after skipping `skip` (R90). -/
def everyNth {α : Type} (step : Nat) : Nat → List α → List α
  | _, [] => []
  | 0, x :: xs => x :: everyNth step (step - 1) xs
  | skip + 1, _ :: xs => everyNth step skip xs

/-- The segment that a context takes from a row: the columns of R90, in ascending order. -/
def WindowContext.segment (c : WindowContext) (samples : List Half) : List Half :=
  everyNth c.columnStep.toNat 0 ((samples.drop c.leftColumn).take c.width)

/-- The blocks a segment of s samples needs (R93). -/
def pixelBlocks (s : Nat) : Nat := ceilDiv s 64

/-- The blocks an INFO line of n bytes needs (R97). -/
def infoBlocks (n : Nat) : Nat := ceilDiv n 128

/-- The PIXEL record of a segment (R92): a block holds 64 samples at every depth (R93). -/
def WindowContext.pixelRecord (c : WindowContext) (depth : BitVec 2) (r : Nat) (segment : List Half) (ids : List Nat) :
    Record :=
  ⟨c.stream, .pixelRecord depth (c.outputRow r) segment.length
    (fillBlocks (64 * sampleBytes depth) ids (packSamples depth segment))⟩

/-- A row dropped for a slot (R95). -/
def dropRow (cause : Byte) (i : Fin 16) (p : Fin 4) (s : State) : State :=
  let s := updateContext i (fun c => { c with deficient := true }) s
  let s := raiseEvent .segmentDropped (.port p) cause (natByte i.val) s
  s.setPort p { s.port p with rowsDropped := satInc (s.port p).rowsDropped }

/-- The segment of a taken row for a slot that covers it: CLIPPED if it is short, then enqueued or dropped (R91 to
R95). -/
def cutSegment (depth : BitVec 2) (r : Nat) (samples : List Half) (i : Fin 16) (c : WindowContext) (s : State) : State :=
  let segment := c.segment samples
  let s := if segment.length < c.outputWidth then updateContext i (fun c => { c with clipped := true }) s else s
  match claim c.port (pixelBlocks segment.length) s with
  | .error cause => dropRow cause i c.port s
  | .ok (ids, s) =>
    updateContext i (fun c => { c with rowsDelivered := c.rowsDelivered + 1 })
      (enqueue c.port (c.pixelRecord depth r segment ids) s)

/-- A taken row for one slot: the segment cutter's part, at which the ports begin what they can, and then the end test
(R74, R89, R111; log entry 7, DEDUCED; unsafe). -/
def takeSlot (depth : BitVec 2) (r : Nat) (samples : List Half) (i : Fin 16) (s : State) : State :=
  match (s.slot i).state with
  | .active c => endTest r i (if c.covers r then settle (cutSegment depth r samples i c s) else s)
  | _ => s

/-! ### INFO lines (R97, R98) -/

/-- The INFO record of a line (R97): a block holds 128 bytes. -/
def WindowContext.infoRecord (c : WindowContext) (payload : List Byte) (ids : List Nat) : Record :=
  ⟨c.stream, .infoRecord payload.length (fillBlocks 128 ids payload)⟩

/-- The copy of an INFO line for one slot (R97, R98). -/
def copyInfo (payload : List Byte) (i : Fin 16) (s : State) : State :=
  match (s.slot i).state with
  | .active c =>
    if c.carryInfo then
      match claim c.port (infoBlocks payload.length) s with
      | .error cause => raiseEvent .segmentDropped (.port c.port) cause (natByte i.val) s
      | .ok (ids, s) => enqueue c.port (c.infoRecord payload ids) s
    else s
  | _ => s

/-! ### Frame end and frame abort (R78, R79) -/

/-- A slot still ACTIVE at frame end: CLIPPED, then COMPLETE (R78). -/
def endAtFrameEnd (i : Fin 16) (s : State) : State :=
  endWindow .complete i (updateContext i (fun c => { c with clipped := true }) s)

/-- Frame end (R78). -/
def announceFrameEnd (s : State) : State := forSlots endAtFrameEnd s

/-- Frame abort with a cause other than RESTART (R79). -/
def announceFrameAbort (s : State) : State := forSlots (endWindow .aborted) s

end Sys2Proof.Machine
end

