-- ==== Sys2Proof/Machine/Ingress.lean ====
section
/-! DEFINITION. The ingress receiver (Chapter 2): lock, faulty lines, OPEN and CLOSE, stray lines, and the frame silence
timer. PIXEL and INFO lines are in Rows.lean. -/

namespace Sys2Proof.Machine

/-- The cause codes of FRAME_ABORTED (Table 1.15); the fifth cause, RESTART, raises no event (R40). -/
inductive AbortCause where
  | syncFault | signalLost | silence | newOpen
  deriving DecidableEq, Repr

def AbortCause.code : AbortCause → Byte
  | .syncFault => 1
  | .signalLost => 2
  | .silence => 3
  | .newOpen => 4

/-- The receiver's own part of an abort, for every cause (R40). -/
def Receiver.abort (r : Receiver) : Receiver :=
  { r with silenceTimer := .stopped, framesAborted := satInc r.framesAborted }

/-- A frame abort with a cause other than RESTART: timer and counter, the window frames ended, FRAME_ABORTED raised
(R40, R79; that order is log entry 12, DEDUCED; unsafe). -/
def abortFrame (cause : AbortCause) (s : State) : State :=
  raiseEvent .frameAborted .none cause.code 0 (announceFrameAbort (s.setReceiver s.receiver.abort))

def State.setReceiverState (r : ReceiverState) (s : State) : State := s.setReceiver { s.receiver with state := r }

/-- The frame silence timer starts afresh with the full timeout (R37). -/
def Receiver.restartTimer (r : Receiver) : Receiver := { r with silenceTimer := .running r.silenceTimeout }

/-- A LINE_FAULT that the line-fault counter counts (R41): causes header, check, info limit and row order. -/
def countedFault (cause kind : Byte) (s : State) : State :=
  let s := raiseEvent .lineFault .none cause kind s
  s.setReceiver { s.receiver with lineFaults := satInc s.receiver.lineFaults }

/-- The kind field of a line as a byte (Table 1.15). -/
def kindByte (k : LineKind) : Byte := (kindCode k).setWidth 8

/-- A stray line: discarded and counted; reported outside HUNTING (R26, R27, R29). -/
def strayLine (k : LineKind) (s : State) : State :=
  let s := if s.receiver.state = .hunting then s else raiseEvent .lineFault .none 3 (kindByte k) s
  s.setReceiver { s.receiver with strayLines := satInc s.receiver.strayLines }

/-! ### Lock (R21, R22) -/

/-- Lock gained reaches the receiver in NO_SIGNAL (R21). -/
def lockGained (s : State) : Option State :=
  if s.receiver.state = .noSignal then
    some (raiseEvent .signalChange .none 1 0 ({ s with laneLocked := true }.setReceiverState .hunting))
  else none

def execLockGained (s : State) : Host.Outcome State Fault Refusal := conclude s (lockGained s)

/-- The receiver passes to NO_SIGNAL and reports it (R22). -/
def loseLock (s : State) : State :=
  raiseEvent .signalChange .none 0 0 ({ s with laneLocked := false }.setReceiverState .noSignal)

/-- Lock lost reaches the receiver in HUNTING, BETWEEN_FRAMES or IN_FRAME (R22). -/
def lockLost (s : State) : Option State :=
  match s.receiver.state with
  | .noSignal => none
  | .inFrame => some (loseLock (abortFrame .signalLost s))
  | _ => some (loseLock s)

def execLockLost (s : State) : Host.Outcome State Fault Refusal := conclude s (lockLost s)

/-! ### Faulty lines (R23 to R25) -/

/-- A header fault by the receiver's state (R23). -/
def headerFault (s : State) : Option State :=
  match s.receiver.state with
  | .noSignal => none
  | .hunting => some s
  | .betweenFrames => some (countedFault 1 0xff (s.setReceiverState .hunting))
  | .inFrame => some (countedFault 1 0xff ((abortFrame .syncFault s).setReceiverState .hunting))

def execHeaderFault (s : State) : Host.Outcome State Fault Refusal := conclude s (headerFault s)

/-- The effect on rows of a PIXEL line that fails its trailer while IN_FRAME (R25). -/
def failedPixel (r : Nat) (s : State) : State :=
  let e := s.receiver.expectedRow
  if e ≤ r then
    let s := missRows e (r + 1 - e) s
    s.setReceiver { s.receiver with expectedRow := r + 1 }
  else s

/-- A trailer failure: LINE_FAULT check, the line-fault counter, COMMAND_LOST for a command line, and the rows of a
PIXEL line in a frame (R24, R25). That LINE_FAULT comes before the WINDOW_DONE of window frames that its missed rows end
is log entry 20 (DESIGN CHOICE; unsafe). -/
def failedLine (h : LineHeader) (s : State) : State :=
  let s := countedFault 2 (kindByte h.kind) s
  match h.kind with
  | .controlKind => if h.stream = 0 then raiseEvent .commandLost .none 1 0 s else s
  | .pixelKind => if s.receiver.state = .inFrame then failedPixel h.row.toNat s else s
  | _ => s

/-- A delivered line that fails its trailer check; none is delivered in NO_SIGNAL (R1, R24). -/
def trailerFailure (h : LineHeader) (s : State) : Option State :=
  if s.receiver.state = .noSignal then none else some (failedLine h s)

def execTrailerFailure (h : LineHeader) (s : State) : Host.Outcome State Fault Refusal :=
  conclude s (trailerFailure h s)

/-! ### Frame start (R30, R31) -/

/-- The ingress frame number of an OPEN payload, missing bytes taken as 00h (R9, R10). -/
def openFrameNumber (payload : List Byte) : Half := halfOf (payload.getD 0 0) (payload.getD 1 0)

/-- The receiver's own part of a frame start, steps 1 to 4 of R30. -/
def Receiver.startFrame (r : Receiver) (depth : BitVec 2) (payload : List Byte) : Receiver :=
  { r with
    state := .inFrame
    frameNumber := openFrameNumber payload
    depth := depth
    expectedRow := 0
    infoCount := 0
    silenceTimer := .running r.silenceTimeout
    framesTaken := satInc r.framesTaken }

/-- A new ingress frame starts (R30). -/
def startFrame (depth : BitVec 2) (payload : List Byte) (s : State) : State :=
  announceFrameStart (s.setReceiver (s.receiver.startFrame depth payload))

/-- A sound OPEN: in IN_FRAME the frame in progress is aborted first (R30, R31). -/
def ingressOpen (depth : BitVec 2) (payload : List Byte) (s : State) : Option State :=
  match s.receiver.state with
  | .noSignal => none
  | .inFrame => some (startFrame depth payload (abortFrame .newOpen s))
  | _ => some (startFrame depth payload s)

def execIngressOpen (depth : BitVec 2) (payload : List Byte) (s : State) : Host.Outcome State Fault Refusal :=
  conclude s (ingressOpen depth payload s)

/-! ### The end of a frame (R36) and stray CONTROL lines -/

/-- A sound CLOSE taken while IN_FRAME: the frame ends normally (R36). -/
def frameClose (s : State) : State :=
  announceFrameEnd (s.setReceiver { s.receiver with state := .betweenFrames, silenceTimer := .stopped })

/-- A sound CLOSE; its payload is not read (R9, R26, R27, R36). -/
def ingressClose (s : State) : Option State :=
  match s.receiver.state with
  | .noSignal => none
  | .inFrame => some (frameClose s)
  | _ => some (strayLine .closeKind s)

def execIngressClose (_payload : List Byte) (s : State) : Host.Outcome State Fault Refusal :=
  conclude s (ingressClose s)

/-- A sound CONTROL line on a channel other than 0 (R26, R27, R29). -/
def strayControl (s : State) : Option State :=
  if s.receiver.state = .noSignal then none else some (strayLine .controlKind s)

def execStrayControlLine (_channel : BitVec 4) (_payload : List Byte) (s : State) :
    Host.Outcome State Fault Refusal :=
  conclude s (strayControl s)

/-! ### The frame silence timer (R38) -/

/-- Expiry of the frame silence timer; it runs only while IN_FRAME (R37, R38). -/
def frameSilence (s : State) : Option State :=
  if s.receiver.state = .inFrame ∧ s.receiver.silenceTimer.isRunning then
    some ((abortFrame .silence s).setReceiverState .betweenFrames)
  else none

def execFrameSilenceExpiry (s : State) : Host.Outcome State Fault Refusal := conclude s (frameSilence s)

end Sys2Proof.Machine
end

