-- ==== Sys2Proof/Machine/Operands.lean ====
section
/-! DEFINITION. The operand forms of the commands: the argument encodings of Table 1.13 and the entry record of
Table 1.14, read and written. -/

namespace Sys2Proof.Machine

/-! ### Replies -/

def Reply.done : Reply := ⟨.done, 0, []⟩
/-- BAD_ARGUMENT naming a field (R13, R15). -/
def Reply.badArgument (field : Byte) : Reply := ⟨.badArgument, field, []⟩
/-- A result with detail 00h and no data (R13). -/
def Reply.plain (r : Result) : Reply := ⟨r, 0, []⟩
/-- INVALID_TABLE naming the failing entry and the cause (R14). -/
def Reply.invalidTable (index : Nat) (cause : Byte) : Reply := ⟨.invalidTable, BitVec.ofNat 8 index, [cause]⟩

/-! ### Single arguments (Table 1.13) -/

/-- A bank, port or line number: 0 to 3. -/
def fin4Of (b : Byte) : Option (Fin 4) := if h : b.toNat < 4 then some ⟨b.toNat, h⟩ else none

/-- An entry index or bound slot: 0 to 15. -/
def fin16Of (b : Byte) : Option (Fin 16) := if h : b.toNat < 16 then some ⟨b.toNat, h⟩ else none

/-- An enable, cut or latch: 0 or 1. -/
def flagOf (b : Byte) : Option Bool := if b = 0 then some false else if b = 1 then some true else none

def modeOf (b : Byte) : Option LineMode :=
  if b = 0 then some .input else if b = 1 then some .outLatch else if b = 2 then some .outWindow else none

def edgeOf (b : Byte) : Option EdgeSelect :=
  if b = 0 then some .rising else if b = 1 then some .falling else if b = 2 then some .both else none

def filterOf (b : Byte) : Option FilterTime :=
  if b = 0 then some .us0 else if b = 1 then some .us1 else if b = 2 then some .us10
  else if b = 3 then some .us100 else none

def priorityOf (b : Byte) : Option Priority :=
  if b = 0 then some .routine else if b = 1 then some .urgent else none

/-- A number in a range, both ends inside. -/
def inRange (low high n : Nat) : Option Nat := if low ≤ n ∧ n ≤ high then some n else none

/-- A field that must be in range: its number is the error otherwise (R15). -/
def require {α : Type} (field : Byte) : Option α → Except Byte α
  | some a => .ok a
  | none => .error field

/-- Slot i is named by a slot mask (R15). -/
def masked (mask : Half) (i : Fin 16) : Bool := mask.getLsbD i.val

/-! ### The entry record (Table 1.14) -/

/-- The twelve bytes of an entry record as its fields. -/
structure RawRecord where
  flags : Byte
  top : Half
  height : Half
  left : Half
  width : Half
  portStream : Byte
  steps : Byte
  trigger : Byte
  deriving DecidableEq, Repr

/-- Fields 3 to 10 of twelve argument bytes. -/
def rawRecord : List Byte → Option RawRecord
  | [f, t1, t0, h1, h0, l1, l0, w1, w0, ps, st, tr] =>
    some ⟨f, halfOf t1 t0, halfOf h1 h0, halfOf l1 l0, halfOf w1 w0, ps, st, tr⟩
  | _ => none

/-- A step code; 3 is illegal (R16). -/
def stepOf (c : BitVec 2) : Option StepSize :=
  if c = 0 then some .one else if c = 1 then some .two else if c = 2 then some .four else none

def stepCode : StepSize → BitVec 2
  | .one => 0
  | .two => 1
  | .four => 2

/-- A trigger source code: 0 NONE, 1 to 4 TRG0 to TRG3, 5 to 7 illegal (R16). -/
def triggerOf (c : BitVec 3) : Option (Option (Fin 4)) :=
  if c = 0 then some none
  else if c = 1 then some (some 0)
  else if c = 2 then some (some 1)
  else if c = 3 then some (some 2)
  else if c = 4 then some (some 3)
  else none

def triggerCode : Option (Fin 4) → BitVec 3
  | none => 0
  | some n => BitVec.ofNat 3 (n.val + 1)

/-- Passes 2 and 3 of WRITE_ENTRY's checks (R49) on a record, and the entry it describes; the reserved bits are ignored
(R16, R43). An error is the number of the first field that fails. -/
def entryOfRecord (r : RawRecord) : Except Byte Entry := do
  let height ← require 5 (inRange 1 4096 r.height.toNat)
  let width ← require 7 (inRange 1 4096 r.width.toNat)
  let port ← require 8 (fin4Of ((r.portStream.extractLsb' 4 4).setWidth 8))
  let rowStep ← require 9 (stepOf (r.steps.extractLsb' 6 2))
  let columnStep ← require 9 (stepOf (r.steps.extractLsb' 4 2))
  let trigger ← require 10 (triggerOf (r.trigger.extractLsb' 5 3))
  let topRow ← require 4 (inRange 0 (4096 - height) r.top.toNat)
  let leftColumn ← require 6 (inRange 0 (4096 - width) r.left.toNat)
  .ok
    { enable := r.flags.getLsbD 7
      mode := if r.flags.getLsbD 6 then .armed else .continuous
      policy := if r.flags.getLsbD 5 then .restart else .keep
      carryInfo := r.flags.getLsbD 4
      topRow, height, leftColumn, width, port
      stream := r.portStream.extractLsb' 0 4
      rowStep, columnStep, trigger
      holdOff := (r.trigger.extractLsb' 0 4).toNat }

/-- The flags byte of an entry, reserved bits zero (Table 1.14). -/
def Entry.flagsByte (e : Entry) : Byte :=
  BitVec.ofBool e.enable ++ BitVec.ofBool (e.mode == .armed) ++ BitVec.ofBool (e.policy == .restart)
    ++ BitVec.ofBool e.carryInfo ++ (0 : BitVec 4)

/-- The 12-byte record of an entry, reserved bits zero (R51, Table 1.14). -/
def Entry.record (e : Entry) : List Byte :=
  [e.flagsByte] ++ halfBytes (BitVec.ofNat 16 e.topRow) ++ halfBytes (BitVec.ofNat 16 e.height)
    ++ halfBytes (BitVec.ofNat 16 e.leftColumn) ++ halfBytes (BitVec.ofNat 16 e.width)
    ++ [(BitVec.ofNat 4 e.port.val ++ e.stream : BitVec 8),
      (stepCode e.rowStep ++ stepCode e.columnStep ++ (0 : BitVec 4) : BitVec 8),
      (triggerCode e.trigger ++ (0 : BitVec 1) ++ BitVec.ofNat 4 e.holdOff : BitVec 8)]

end Sys2Proof.Machine
end

