-- ==== Sys2Proof/Machine/Intake.lean ====
section
/-! DEFINITION. The command interpreter's intake (section 8.1): the hand-off of a CONTROL line on channel 0, the intake
tests, the taking of a command and the placing of its response. -/

namespace Sys2Proof.Machine

/-- The receiver completes the line's effect on its own state: HUNTING to BETWEEN_FRAMES, and the silence timer of a
frame restarted (R26, R28, R37, R137). -/
def handOff (s : State) : State :=
  match s.receiver.state with
  | .hunting => s.setReceiverState .betweenFrames
  | .inFrame => s.setReceiver s.receiver.restartTimer
  | _ => s

/-- An unacknowledged entry when MANAGEMENT_SILENT is left: retry count 0, not due, timer started afresh unless it is in
transmission (R164). -/
def SentEntry.wake (interval : Nat) (e : SentEntry) : SentEntry :=
  { e with retryCount := 0, due := false, retryTimer := if e.inTransmission then .stopped else .running interval }

/-- MANAGEMENT_SILENT is left, if it holds, and the leaving is reported (R164). -/
def leaveSilent (s : State) : State :=
  if s.notify.silent then
    reportSilent false
      (s.setNotify { s.notify with silent := false, sent := s.notify.sent.map (·.wake s.notify.retryInterval) })
  else s

/-- A response joins the tail of the response queue (R141). -/
def placeResponse (r : Response) (s : State) : State := { s with responses := s.responses ++ [r] }

/-- Steps 1 and 3 to 5 of R139 for a command in the summary. `action` is none when the arguments are not of the length
the code requires; otherwise it is the owner's part (R153). -/
def carryOut (tag code : Byte) (action : Option (State → State × Reply)) (s : State) : State :=
  let s := leaveSilent s
  match action with
  | none => placeResponse ⟨tag, code, .plain .badLength⟩ s
  | some owner =>
    let (s, reply) := owner s
    placeResponse ⟨tag, code, reply⟩ s

/-- A command line with a code: handed off, lost if all sixteen response places are occupied, otherwise taken
(R137, R138, R139). -/
def takeCommand (tag code : Byte) (action : Option (State → State × Reply)) (s : State) : Option State :=
  if s.receiver.state = .noSignal then none
  else
    let s := handOff s
    some (if s.responseQueueFull then raiseEvent .commandLost .none 2 tag s else carryOut tag code action s)

/-- A command refused or answered without an effect. -/
def answer (r : Reply) (s : State) : State × Reply := (s, r)

/-- An owner that checks its arguments first and refuses with BAD_ARGUMENT naming the failing field (R153). -/
def withArguments {α : Type} (checked : Except Byte α) (serve : α → State → State × Reply) (s : State) :
    State × Reply :=
  match checked with
  | .error field => answer (.badArgument field) s
  | .ok a => serve a s

/-! ### SHORT_COMMAND_LINE and UNKNOWN_COMMAND -/

/-- A CONTROL line on channel 0 with count below 2: handed off, not taken (R138). -/
def shortCommand (s : State) : Option State :=
  if s.receiver.state = .noSignal then none else some (raiseEvent .commandLost .none 3 0 (handOff s))

def execShortCommandLine (_payload : List Byte) (s : State) : Host.Outcome State Fault Refusal :=
  conclude s (shortCommand s)

/-- A command whose code is not in the summary receives UNKNOWN_COMMAND whatever its length (R139 step 2). -/
def execUnknownCommand (tag code : Byte) (_args : List Byte) (s : State) : Host.Outcome State Fault Refusal :=
  conclude s (takeCommand tag code (some (answer (.plain .unknownCommand))) s)

/-! ### SET_INGRESS (R39) -/

/-- The frame silence timeout is stored; a running timer is restarted with it (R39). -/
def setIngressTimeout (timeout : Nat) (s : State) : State × Reply :=
  let timer := if s.receiver.silenceTimer.isRunning then .running timeout else .stopped
  (s.setReceiver { s.receiver with silenceTimeout := timeout, silenceTimer := timer }, .done)

def setIngressAction : List Byte → Option (State → State × Reply)
  | [t] => some (withArguments (require 1 (inRange 1 255 t.toNat)) setIngressTimeout)
  | _ => none

def execSetIngress (tag : Byte) (args : List Byte) (s : State) : Host.Outcome State Fault Refusal :=
  conclude s (takeCommand tag 0x50 (setIngressAction args) s)

end Sys2Proof.Machine
end

