-- ==== Sys2Proof/Machine/Arming.lean ====
section
/-! DEFINITION. Arming (sections 4.6 and 4.7): ARM, DISARM and trigger edges. -/

namespace Sys2Proof.Machine

/-! ### ARM (R81) -/

/-- A slot takes its settled state unless it is ACTIVE (R65). -/
def settleUnlessActive (i : Fin 16) (s : State) : State :=
  if (s.slot i).state.isActive then s else settleSlot i s

/-- A slot's arm count raised, a sum above 15 giving 15 (R81). -/
def addArm (count : Nat) (i : Fin 16) (s : State) : State :=
  settleUnlessActive i (s.setSlot i { s.slot i with armCount := min ((s.slot i).armCount + count) 15 })

/-- ARM for one slot: only a masked slot whose entry is enabled and ARMED changes (R81). -/
def armSlot (mask : Half) (count : Nat) (i : Fin 16) (s : State) : State :=
  if masked mask i && (s.governing i).isArmed then addArm count i s else s

/-- The masked slots left unchanged, as a slot mask (R81). -/
def unarmedMask (mask : Half) (s : State) : Half :=
  allSlots.foldl (fun m i => if masked mask i && !(s.governing i).isArmed then m ||| (1#16 <<< i.val) else m) 0

/-- ARM with its count in range (R81). -/
def armSlots (mask : Half) (count : Nat) (s : State) : State × Reply :=
  if s.pendingBank.isSome then answer (.plain .bankPending) s
  else (forSlots (armSlot mask count) s, ⟨.done, 0, halfBytes (unarmedMask mask s)⟩)

def armAction : List Byte → Option (State → State × Reply)
  | [hi, lo, count] => some (withArguments (require 2 (inRange 1 15 count.toNat)) (armSlots (halfOf hi lo)))
  | _ => none

def execArm (tag : Byte) (args : List Byte) (s : State) : Host.Outcome State Fault Refusal :=
  conclude s (takeCommand tag 0x20 (armAction args) s)

/-! ### DISARM (R82) -/

/-- DISARM for one slot (R82). -/
def disarmSlot (mask : Half) (cut : Bool) (i : Fin 16) (s : State) : State :=
  if masked mask i && (s.governing i).isArmed then
    let s := s.setSlot i { s.slot i with armCount := 0 }
    if (s.slot i).state.isActive then
      if cut then endWindow .cut i s else s
    else settleSlot i s
  else s

def disarmSlots (mask : Half) (cut : Bool) (s : State) : State × Reply :=
  (forSlots (disarmSlot mask cut) s, .done)

def disarmAction : List Byte → Option (State → State × Reply)
  | [hi, lo, cut] => some (withArguments (require 2 (flagOf cut)) (disarmSlots (halfOf hi lo)))
  | _ => none

def execDisarm (tag : Byte) (args : List Byte) (s : State) : Host.Outcome State Fault Refusal :=
  conclude s (takeCommand tag 0x21 (disarmAction args) s)

/-! ### Trigger edges (R83, R84) -/

/-- A trigger edge taken for a slot: under policy RESTART a window frame in progress is cut first; the arm count then
increases by one (R84). -/
def takeEdge (i : Fin 16) (s : State) : State :=
  let s := if (s.slot i).state.isActive ∧ (s.governing i).policy = .restart then endWindow .cut i s else s
  settleUnlessActive i (s.setSlot i { s.slot i with armCount := (s.slot i).armCount + 1 })

/-- A trigger edge on line n for one slot: refused by hold-off, refused by overrun, or taken (R83). -/
def edgeSlot (n : Fin 4) (i : Fin 16) (s : State) : State :=
  if (s.governing i).isArmed ∧ (s.governing i).trigger = some n then
    if 0 < (s.slot i).holdOff then raiseEvent .triggerRefused (.slot i) 1 (BitVec.ofNat 8 n.val) s
    else if (s.slot i).armCount = 15 then raiseEvent .triggerRefused (.slot i) 2 (BitVec.ofNat 8 n.val) s
    else takeEdge i s
  else s

/-- The slot controller takes the oldest accepted edge of line n (R83, R129). -/
def triggerEdge (n : Fin 4) (s : State) : Option State :=
  match (s.line n).edges with
  | [] => none
  | _ :: rest => some (forSlots (edgeSlot n) (s.setLine n { s.line n with edges := rest }))

def execTriggerEdge (n : Fin 4) (s : State) : Host.Outcome State Fault Refusal := conclude s (triggerEdge n s)

end Sys2Proof.Machine
end

