-- ==== Sys2Proof/Machine/LineIO.lean ====
section
/-! DEFINITION. The line I/O unit (Chapter 7): the filtering of trigger pins, accepted changes, and SET_LINE. -/

namespace Sys2Proof.Machine

/-! ### Accepted changes (R128, R129) -/

/-- An edge select names a change (R129). -/
def EdgeSelect.names : EdgeSelect → ChangeDirection → Bool
  | .rising, .rising => true
  | .falling, .falling => true
  | .both, _ => true
  | _, _ => false

/-- The direction of an accepted change to a level (R129). -/
def directionTo (level : Bool) : ChangeDirection := if level then .rising else .falling

/-- A trigger edge joins those not yet taken; one accepted while the line holds two is discarded (R129). -/
def addEdge (d : ChangeDirection) (edges : List ChangeDirection) : List ChangeDirection :=
  if edges.length < 2 then edges ++ [d] else edges

/-- A change is accepted: the filtered level takes the pin level, the interval ends, and the change is a trigger edge if
the edge select names it (R128, R129). -/
def TriggerLine.accept (l : TriggerLine) : TriggerLine :=
  { l with
    filteredLevel := l.pin
    filterInterval := .stopped
    edges := if l.edge.names (directionTo l.pin) then addEdge (directionTo l.pin) l.edges else l.edges }

/-- The filter at work on a line in INPUT mode whose pin has changed (R128). -/
def TriggerLine.filterPin (l : TriggerLine) : TriggerLine :=
  if l.pin = l.filteredLevel then { l with filterInterval := .stopped }
  else match l.filter with
    | .us0 => l.accept
    | f => { l with filterInterval := .running f.micros }

/-- The level at the pin changes. In an output mode the part drives the pin, and the level from outside is kept for the
moment the line returns to INPUT (R131; log entry 9, DESIGN CHOICE; unsafe). -/
def TriggerLine.changePin (l : TriggerLine) : TriggerLine :=
  let l := { l with pin := !l.pin }
  if l.mode = .input then l.filterPin else l

def pinChange (n : Fin 4) (s : State) : Option State := some (s.setLine n (s.line n).changePin)

def execTriggerPinChange (n : Fin 4) (s : State) : Host.Outcome State Fault Refusal := conclude s (pinChange n s)

/-- Expiry of a filter interval under way on a line in INPUT mode (R128). -/
def filterExpiry (n : Fin 4) (s : State) : Option State :=
  if (s.line n).mode = .input ∧ (s.line n).filterInterval.isRunning then some (s.setLine n (s.line n).accept)
  else none

def execFilterIntervalExpiry (n : Fin 4) (s : State) : Host.Outcome State Fault Refusal :=
  conclude s (filterExpiry n s)

/-! ### SET_LINE (R130 to R132) -/

/-- The six arguments of SET_LINE in range. -/
structure LineSettings where
  line : Fin 4
  mode : LineMode
  edge : EdgeSelect
  filter : FilterTime
  latch : Bool
  boundSlot : Fin 16
  deriving DecidableEq, Repr

/-- The argument checks of SET_LINE, in ascending field order (R132). -/
def checkLine (l m e f la b : Byte) : Except Byte LineSettings := do
  let line ← require 1 (fin4Of l)
  let mode ← require 2 (modeOf m)
  let edge ← require 3 (edgeOf e)
  let filter ← require 4 (filterOf f)
  let latch ← require 5 (flagOf la)
  let boundSlot ← require 6 (fin16Of b)
  .ok { line, mode, edge, filter, latch, boundSlot }

/-- The five settings stored (R132). -/
def TriggerLine.store (l : TriggerLine) (a : LineSettings) : TriggerLine :=
  { l with mode := a.mode, edge := a.edge, filter := a.filter, latch := a.latch, boundSlot := a.boundSlot }

/-- A filter interval under way when the filter setting changes: it restarts with the new time, or with filter 0 the
change is accepted at that moment, by the settings now stored (R131; log entry 10, DEDUCED; unsafe). -/
def TriggerLine.refilter (l : TriggerLine) : TriggerLine :=
  if l.filterInterval.isRunning then
    match l.filter with
    | .us0 => l.accept
    | f => { l with filterInterval := .running f.micros }
  else l

/-- The line after an accepted SET_LINE, by its old and new modes (R131). -/
def TriggerLine.applySettings (l : TriggerLine) (a : LineSettings) : TriggerLine :=
  let stored := l.store a
  match l.mode, a.mode with
  | .input, .input => if l.filter = a.filter then stored else stored.refilter
  | .input, _ => { stored with filterInterval := .stopped }
  | _, .input => { stored with filteredLevel := l.pin, filterInterval := .stopped }
  | _, _ => stored

/-- SET_LINE with its arguments in range (R132). -/
def storeLine (a : LineSettings) (s : State) : State × Reply :=
  (s.setLine a.line ((s.line a.line).applySettings a), .done)

def setLineAction : List Byte → Option (State → State × Reply)
  | [l, m, e, f, la, b] => some (withArguments (checkLine l m e f la b) storeLine)
  | _ => none

def execSetLine (tag : Byte) (args : List Byte) (s : State) : Host.Outcome State Fault Refusal :=
  conclude s (takeCommand tag 0x40 (setLineAction args) s)

end Sys2Proof.Machine
end

