-- ==== Sys2Proof/Machine/Notify.lean ====
section
/-! DEFINITION. The notification unit's commands and timer (Chapter 9): SET_EVENT, SET_NOTIFY, ACK and the expiry of a
retry timer. -/

namespace Sys2Proof.Machine

/-! ### SET_EVENT (R155) -/

/-- The arguments of SET_EVENT in range. -/
structure EventSettings where
  cls : EventClass
  enable : Bool
  priority : Priority
  deriving DecidableEq, Repr

/-- The argument checks of SET_EVENT, and then the refusal to disable RESTARTED, which names field 2 (R155). -/
def checkEvent (c e p : Byte) : Except Byte EventSettings := do
  let cls ← require 1 (EventClass.ofCode c)
  let enable ← require 2 (flagOf e)
  let priority ← require 3 (priorityOf p)
  if cls = .restarted ∧ enable = false then .error 2 else .ok { cls, enable, priority }

/-- Both settings stored; a pending entry of the class takes the new priority at once (R155). -/
def NotifyUnit.applySettings (n : NotifyUnit) (a : EventSettings) : NotifyUnit :=
  { n with
    settings := n.settings.set a.cls.index.val ⟨a.enable, a.priority⟩
    pending := n.pending.map fun e => if e.cls = a.cls then { e with priority := a.priority } else e }

def setEvent (a : EventSettings) (s : State) : State × Reply := (s.setNotify (s.notify.applySettings a), .done)

def setEventAction : List Byte → Option (State → State × Reply)
  | [c, e, p] => some (withArguments (checkEvent c e p) setEvent)
  | _ => none

def execSetEvent (tag : Byte) (args : List Byte) (s : State) : Host.Outcome State Fault Refusal :=
  conclude s (takeCommand tag 0x60 (setEventAction args) s)

/-! ### SET_NOTIFY (R165) -/

/-- The argument checks of SET_NOTIFY: the retry interval, then the retry limit (R165). -/
def checkNotify (i l : Byte) : Except Byte (Nat × Nat) := do
  let interval ← require 1 (inRange 1 255 i.toNat)
  let limit ← require 2 (inRange 1 15 l.toNat)
  .ok (interval, limit)

/-- Both settings stored; a timer already running keeps its time (R165). -/
def setNotify (a : Nat × Nat) (s : State) : State × Reply :=
  (s.setNotify { s.notify with retryInterval := a.1, retryLimit := a.2 }, .done)

def setNotifyAction : List Byte → Option (State → State × Reply)
  | [i, l] => some (withArguments (checkNotify i l) setNotify)
  | _ => none

def execSetNotify (tag : Byte) (args : List Byte) (s : State) : Host.Outcome State Fault Refusal :=
  conclude s (takeCommand tag 0x61 (setNotifyAction args) s)

/-! ### ACK (R166) -/

/-- The unacknowledged entries left when the one with a sequence number and every older one are removed, if there is
such an entry (R166). -/
def dropThrough (seq : Byte) : List SentEntry → Option (List SentEntry)
  | [] => none
  | e :: rest => if e.sequence = seq then some rest else dropThrough seq rest

/-- ACK: removes the named entry and every older one, or UNKNOWN_SEQUENCE (R166, R172). -/
def acknowledge (seq : Byte) (s : State) : State × Reply :=
  match dropThrough seq s.notify.sent with
  | some rest => (s.setNotify { s.notify with sent := rest }, .done)
  | none => answer (.plain .unknownSequence) s

def ackAction : List Byte → Option (State → State × Reply)
  | [seq] => some (acknowledge seq)
  | _ => none

def execAck (tag : Byte) (args : List Byte) (s : State) : Host.Outcome State Fault Refusal :=
  conclude s (takeCommand tag 0x62 (ackAction args) s)

/-! ### The retry timer (R162, R163) -/

/-- The unit enters MANAGEMENT_SILENT: every retry timer stops and the entry is reported (R163). -/
def enterSilent (s : State) : State :=
  reportSilent true
    (s.setNotify { s.notify with
      silent := true
      sent := s.notify.sent.map fun e => { e with retryTimer := .stopped } })

/-- An entry below the retry limit at its expiry: one more retry, and due (R162). -/
def SentEntry.becomeDue (e : SentEntry) : SentEntry :=
  { e with retryCount := e.retryCount + 1, due := true, retryTimer := .stopped }

/-- Expiry of the retry timer of the unacknowledged entry with a sequence number (R162). -/
def retryExpiry (seq : Byte) (s : State) : Option State :=
  match s.notify.sent.find? fun e => e.sequence == seq && e.retryTimer.isRunning with
  | none => none
  | some e =>
    some (if e.retryCount < s.notify.retryLimit then
      s.setNotify { s.notify with sent := s.notify.sent.map fun x => if x.sequence = seq then x.becomeDue else x }
    else enterSilent s)

def execRetryTimerExpiry (seq : Byte) (s : State) : Host.Outcome State Fault Refusal := conclude s (retryExpiry seq s)

end Sys2Proof.Machine
end

