-- ==== Sys2Proof/Machine/Reset.lean ====
section
/-! DEFINITION. HARD_RESET: every block to its hard-reset values, the management port sampled, a line in transmission
sent to its end (R60, R105, R121, R126, R127, R144, R170). -/

namespace Sys2Proof.Machine

/-- The management port that the strap pins choose: 2 × MSEL1 + MSEL0 (R121). -/
def managementPort (msel1 msel0 : Bool) : Fin 4 :=
  match msel1, msel0 with
  | false, false => 0
  | false, true => 1
  | true, false => 2
  | true, true => 3

/-- A line in transmission after a hard reset: it goes on, begun before the reset (R126). -/
def Transmission.age (t : Transmission) : Transmission := { t with stale := true }

/-- A port after hard reset: a line in transmission goes on, with its blocks; the ready level is the pin's (R105,
R126). -/
def Port.hardReset (q : Port) : Port :=
  { Port.reset with
    holding := match q.transmission with
      | some t => t.line.blockIds.length
      | none => 0
    state := match q.transmission with
      | some _ => .sending
      | none => if q.ready then .idle else .held
    transmission := q.transmission.map Transmission.age
    ready := q.ready }

/-- A trigger line after hard reset: its filtered level is the level at the pin (R127). -/
def TriggerLine.hardReset (l : TriggerLine) : TriggerLine :=
  { TriggerLine.reset with filteredLevel := l.pin, pin := l.pin }

def hardResetPort (p : Fin 4) (s : State) : State := s.setPort p (s.port p).hardReset

def hardResetLine (n : Fin 4) (s : State) : State := s.setLine n (s.line n).hardReset

/-- Hard reset: the blocks of every queued record return to the free list (R105), and every block of the part takes its
hard-reset values. -/
def hardReset (msel1 msel0 : Bool) (s : State) : State :=
  let s := forPorts flushQueue s
  let s := forPorts hardResetLine (forPorts hardResetPort s)
  { State.reset with
    freeList := s.freeList
    ports := s.ports
    lines := s.lines
    mgmt := managementPort msel1 msel0
    msel1 := msel1
    msel0 := msel0
    choices := s.choices
    pending := s.pending }

def execHardReset (msel1 msel0 : Bool) (s : State) : Host.Outcome State Fault Refusal :=
  conclude s (some (hardReset msel1 msel0 s))

end Sys2Proof.Machine
end

