-- ==== Sys2Proof/Machine/Table.lean ====
section
/-! DEFINITION. The window table (Chapter 3): the bank-level checks, WRITE_ENTRY, READ_ENTRY and SELECT_BANK. -/

namespace Sys2Proof.Machine

/-! ### The bank-level checks (R45) -/

/-- Two entries share egress port and stream id. -/
def Entry.sameStream (a b : Entry) : Bool := a.port == b.port && a.stream == b.stream

/-- Why entry i of a bank fails the checks, if it does: 2 for a disabled port, else 1 for a stream that an enabled entry
of lower index has (R45). -/
def entryFault (bank : Vector Entry 16) (portEnabled : Fin 4 → Bool) (i : Fin 16) : Option Byte :=
  if !bank[i].enable then none
  else if !portEnabled bank[i].port then some 2
  else if allSlots.any fun j => decide (j < i) && bank[j].enable && bank[j].sameStream bank[i] then some 1
  else none

/-- The first failing entry of a bank in ascending index, with its cause (R45). -/
def bankFault (bank : Vector Entry 16) (portEnabled : Fin 4 → Bool) : Option (Fin 16 × Byte) :=
  allSlots.findSome? fun i => (entryFault bank portEnabled i).map fun cause => (i, cause)

/-- The port enables as they stand (R45). -/
def State.portEnabled (s : State) (p : Fin 4) : Bool := (s.port p).enable

/-! ### WRITE_ENTRY (R49, R50) -/

/-- A write to the active bank between frames: judged as the bank would stand, then stored and the slot reset (R50). -/
def writeActive (i : Fin 16) (e : Entry) (s : State) : State × Reply :=
  match bankFault (s.banks[s.activeBank].set i.val e) s.portEnabled with
  | some (j, cause) => answer (.invalidTable j.val cause) s
  | none => (resetSlot i (s.setEntry s.activeBank i e), .done)

/-- WRITE_ENTRY with its arguments in range, by the role of the bank it names (Table 3.2). -/
def writeEntry (b : Fin 4) (i : Fin 16) (e : Entry) (s : State) : State × Reply :=
  if b = s.activeBank then
    if s.receiver.state = .inFrame then answer (.plain .bankLive) s else writeActive i e s
  else if some b = s.pendingBank then answer (.plain .bankPending) s
  else (s.setEntry b i e, .done)

/-- The three passes of argument checks of WRITE_ENTRY (R49). -/
def checkWrite (b i : Byte) (r : RawRecord) : Except Byte (Fin 4 × Fin 16 × Entry) := do
  let bank ← require 1 (fin4Of b)
  let index ← require 2 (fin16Of i)
  let entry ← entryOfRecord r
  .ok (bank, index, entry)

def writeEntryAction : List Byte → Option (State → State × Reply)
  | b :: i :: record =>
    (rawRecord record).map fun r => withArguments (checkWrite b i r) fun a => writeEntry a.1 a.2.1 a.2.2
  | _ => none

def execWriteEntry (tag : Byte) (args : List Byte) (s : State) : Host.Outcome State Fault Refusal :=
  conclude s (takeCommand tag 0x10 (writeEntryAction args) s)

/-! ### READ_ENTRY (R51) -/

/-- The checks of READ_ENTRY, bank before entry index (R51). -/
def checkRead (b i : Byte) : Except Byte (Fin 4 × Fin 16) := do
  let bank ← require 1 (fin4Of b)
  let index ← require 2 (fin16Of i)
  .ok (bank, index)

/-- The record of the named entry; nothing changes (R51). -/
def readEntry (b : Fin 4) (i : Fin 16) (s : State) : State × Reply := (s, ⟨.done, 0, (s.entry b i).record⟩)

def readEntryAction : List Byte → Option (State → State × Reply)
  | [b, i] => some (withArguments (checkRead b i) fun a => readEntry a.1 a.2)
  | _ => none

def execReadEntry (tag : Byte) (args : List Byte) (s : State) : Host.Outcome State Fault Refusal :=
  conclude s (takeCommand tag 0x11 (readEntryAction args) s)

/-! ### SELECT_BANK (R52) -/

/-- Table 3.4 for a bank in range. -/
def selectBank (b : Fin 4) (s : State) : State × Reply :=
  if b = s.activeBank then
    if s.pendingBank = none then answer (.plain .noChange) s
    else ({ s with pendingBank := none }, .plain .cancelled)
  else if s.pendingBank ≠ none then answer (.plain .busy) s
  else match bankFault s.banks[b] s.portEnabled with
    | some (j, cause) => answer (.invalidTable j.val cause) s
    | none => ({ s with pendingBank := some b }, .done)

def selectBankAction : List Byte → Option (State → State × Reply)
  | [b] => some (withArguments (require 1 (fin4Of b)) selectBank)
  | _ => none

def execSelectBank (tag : Byte) (args : List Byte) (s : State) : Host.Outcome State Fault Refusal :=
  conclude s (takeCommand tag 0x12 (selectBankAction args) s)

end Sys2Proof.Machine
end

