-- ==== Sys2Proof/Machine/Ports.lean ====
section
/-! DEFINITION. The egress ports (Chapter 6): SET_PORT, the ready input, the hold timer, and the completion of a
transmission. -/

namespace Sys2Proof.Machine

/-! ### SET_PORT (R119, R120) -/

/-- The four arguments of SET_PORT in range. -/
structure PortSettings where
  port : Fin 4
  enable : Bool
  ceiling : Nat
  holdTimeout : Nat
  deriving DecidableEq, Repr

/-- The argument checks of SET_PORT, in ascending field order (R119). -/
def checkPort (p e c1 c0 h1 h0 : Byte) : Except Byte PortSettings := do
  let port ← require 1 (fin4Of p)
  let enable ← require 2 (flagOf e)
  let ceiling ← require 3 (inRange 0 1024 (halfOf c1 c0).toNat)
  let holdTimeout ← require 4 (inRange 0 1000 (halfOf h1 h0).toNat)
  .ok { port, enable, ceiling, holdTimeout }

/-- An enabled entry of a bank names the port. -/
def bankNames (bank : Vector Entry 16) (p : Fin 4) : Bool := allSlots.any fun i => bank[i].enable && bank[i].port == p

/-- An enabled entry of the active bank, or of the pending bank, names the port (R119). -/
def State.namedPort (s : State) (p : Fin 4) : Bool :=
  bankNames s.banks[s.activeBank] p ||
    match s.pendingBank with
    | some b => bankNames s.banks[b] p
    | none => false

/-- A port in use cannot be disabled (R119). -/
def State.portInUse (s : State) (p : Fin 4) : Bool :=
  let q := s.port p
  s.namedPort p || decide (0 < q.queued) || decide (0 < q.reservations) || q.openSet != 0 || q.transmission.isSome

/-- The state a port takes from its ready level when it has nothing in transmission: IDLE or HELD. -/
def Port.restState (q : Port) : PortState := if q.ready then .idle else .held

/-- The port after an accepted SET_PORT (R120). -/
def Port.applySettings (q : Port) (a : PortSettings) : Port :=
  { q with
    enable := a.enable
    ceiling := a.ceiling
    holdTimeout := a.holdTimeout
    holdTimer := if q.holdTimer.isRunning && decide (0 < a.holdTimeout) then .running a.holdTimeout else .stopped
    state := if a.enable then (if q.state = .disabled then q.restState else q.state) else .disabled
    stallOutstanding := if a.enable then q.stallOutstanding else false }

/-- SET_PORT with its arguments in range (R119, R120). -/
def setPort (a : PortSettings) (s : State) : State × Reply :=
  if a.enable = false ∧ a.port = s.mgmt then answer (.plain .mgmtPort) s
  else if a.enable = false ∧ (s.port a.port).enable ∧ s.portInUse a.port then answer (.plain .portInUse) s
  else (s.setPort a.port ((s.port a.port).applySettings a), .done)

def setPortAction : List Byte → Option (State → State × Reply)
  | [p, e, c1, c0, h1, h0] => some (withArguments (checkPort p e c1 c0 h1 h0) setPort)
  | _ => none

def execSetPort (tag : Byte) (args : List Byte) (s : State) : Host.Outcome State Fault Refusal :=
  conclude s (takeCommand tag 0x30 (setPortAction args) s)

/-! ### The ready input (R114) -/

/-- The port at a rise of its ready input, by its state (R114). -/
def Port.rise (q : Port) : Port :=
  match q.state with
  | .held => { q with ready := true, state := .idle, holdTimer := .stopped }
  | .stalled => { q with ready := true, state := .recovering }
  | .recovering => { q with ready := true, holdTimer := .stopped }
  | _ => { q with ready := true }

/-- A rise of RDYn; a STALLED port begins recovery, and one whose open-stream set is empty ends it at once (R114,
R118). -/
def readyRise (p : Fin 4) (s : State) : Option State :=
  if (s.port p).ready then none
  else
    let risen := s.setPort p (s.port p).rise
    some (if (s.port p).state = .stalled then endRecoveryIfDone p risen else risen)

def execReadyRise (p : Fin 4) (s : State) : Host.Outcome State Fault Refusal := conclude s (readyRise p s)

/-- The port at a fall of its ready input, by its state (R114). -/
def Port.fall (q : Port) : Port :=
  match q.state with
  | .idle => { q with ready := false, state := .held }
  | _ => { q with ready := false }

/-- A fall of RDYn (R114). -/
def readyFall (p : Fin 4) (s : State) : Option State :=
  if (s.port p).ready then some (s.setPort p (s.port p).fall) else none

def execReadyFall (p : Fin 4) (s : State) : Host.Outcome State Fault Refusal := conclude s (readyFall p s)

/-! ### Stall (R116, R117) -/

/-- An ACTIVE slot routed to a stalling port ends without a CLOSE (R80). -/
def endIfRouted (p : Fin 4) (i : Fin 16) (s : State) : State :=
  match (s.slot i).state with
  | .active c => if c.port = p then endSilently i s else s
  | _ => s

/-- The port passes to STALLED, its hold timer stopped. -/
def Port.stall (q : Port) : Port := { q with state := .stalled, holdTimer := .stopped }

/-- Stall outstanding set, PORT_STATE stalled raised, and port trouble reported by the management port (R116 steps 4
and 5, R117). -/
def reportStall (p : Fin 4) (s : State) : State :=
  let s := raiseEvent .portState (.port p) 1 0 (s.setPort p { s.port p with stallOutstanding := true })
  if p = s.mgmt then reportTrouble true s else s

/-- The hold timer of a HELD port expires: the port stalls (R116). -/
def holdTimerExpiry (p : Fin 4) (s : State) : Option State :=
  if (s.port p).state = .held ∧ (s.port p).holdTimer.isRunning then
    some (reportStall p (forSlots (endIfRouted p) (flushQueue p (s.setPort p (s.port p).stall))))
  else none

def execHoldTimerExpiry (p : Fin 4) (s : State) : Host.Outcome State Fault Refusal := conclude s (holdTimerExpiry p s)

/-- The hold timer of a RECOVERING port expires: the port is STALLED again, its open-stream set unchanged (R117). -/
def recoveryHoldExpiry (p : Fin 4) (s : State) : Option State :=
  if (s.port p).state = .recovering ∧ (s.port p).holdTimer.isRunning then
    some (reportStall p (s.setPort p (s.port p).stall))
  else none

def execRecoveryHoldExpiry (p : Fin 4) (s : State) : Host.Outcome State Fault Refusal :=
  conclude s (recoveryHoldExpiry p s)

/-! ### The completion of a transmission (R112) -/

/-- The open-stream set after a line has completed: an OPEN adds its stream, a CLOSE of any code removes it (R112 step
2, R113). -/
def openSetAfter (line : EgressLine) (set : BitVec 16) : BitVec 16 :=
  match line with
  | .departure r =>
    match r.body with
    | .openRecord .. => set ||| streamBit r.stream
    | .closeRecord .. => set &&& ~~~streamBit r.stream
    | _ => set
  | .abandonedClose id => set &&& ~~~streamBit id
  | _ => set

/-- The notification unit is told that its line has completed: the entry, if still there, is no longer in transmission
and, unless MANAGEMENT_SILENT holds, its retry timer starts with the full retry interval (R161). -/
def NotifyUnit.complete (n : NotifyUnit) : NotifyUnit :=
  { n with sent := n.sent.map fun e =>
      if e.inTransmission then
        { e with inTransmission := false, retryTimer := if n.silent then e.retryTimer else .running n.retryInterval }
      else e }

/-- Steps 2 to 4 of R112, none of them for a line begun before a hard reset (R126, R144, R170). A response frees its
place by leaving transmission (R142). -/
def countCompletion (p : Fin 4) (t : Transmission) (s : State) : State :=
  if t.stale then s
  else
    let q := s.port p
    let s := s.setPort p
      { q with openSet := openSetAfter t.line q.openSet, recordsSent := satInc q.recordsSent }
    match t.line with
    | .notification _ => s.setNotify s.notify.complete
    | _ => s

/-- Step 5 of R112: the next state from the ready level, or the rules of recovery. -/
def nextState (p : Fin 4) (s : State) : State :=
  match (s.port p).state with
  | .sending => s.setPort p { s.port p with state := (s.port p).restState }
  | .recovering => endRecoveryIfDone p s
  | _ => s

/-- The transmission of a line completes (R112). -/
def transmissionComplete (p : Fin 4) (s : State) : Option State :=
  match (s.port p).transmission with
  | none => none
  | some t =>
    let s := s.setPort p { s.port p with transmission := none }
    some (nextState p (countCompletion p t (returnBlocks p t.line.blockIds s)))

def execTransmissionComplete (p : Fin 4) (s : State) : Host.Outcome State Fault Refusal :=
  conclude s (transmissionComplete p s)

end Sys2Proof.Machine
end

