-- ==== Sys2Proof/Machine/Interpreter.lean ====
section
/-! DEFINITION. The commands the interpreter serves itself (sections 8.4 to 8.7): ECHO, READ_STATUS, CLEAR_COUNTERS and
RESTART with every block's part of it. -/

namespace Sys2Proof.Machine

/-! ### ECHO (R145) -/

/-- ECHO takes 0 to 252 argument bytes (R15) and returns them (R145). -/
def echoAction (args : List Byte) : Option (State → State × Reply) :=
  if args.length ≤ 252 then some (answer ⟨.done, 0, args⟩) else none

def execEcho (tag : Byte) (args : List Byte) (s : State) : Host.Outcome State Fault Refusal :=
  conclude s (takeCommand tag 0x01 (echoAction args) s)

/-! ### READ_STATUS (R146) -/

/-- The snapshot of a section, if the section is one (Table 1.17). -/
def snapshot (wasSilent : Bool) (section_ : Byte) (s : State) : Option (List Byte) :=
  if section_ = 0x00 then some (ingressSnapshot s)
  else if section_ = 0x01 then some (tableSnapshot s)
  else if section_ = 0x02 then some (slotsSnapshot s)
  else if section_ = 0x03 then some (linesSnapshot s)
  else if section_ = 0x04 then some (notifySnapshot wasSilent s)
  else if section_ = 0x10 then some (portSnapshot 0 s)
  else if section_ = 0x11 then some (portSnapshot 1 s)
  else if section_ = 0x12 then some (portSnapshot 2 s)
  else if section_ = 0x13 then some (portSnapshot 3 s)
  else none

/-- READ_STATUS changes no block it reads (R146). -/
def readStatus (wasSilent : Bool) (section_ : Byte) (s : State) : State × Reply :=
  match snapshot wasSilent section_ s with
  | some data => (s, ⟨.done, 0, data⟩)
  | none => answer (.badArgument 1) s

def readStatusAction (wasSilent : Bool) : List Byte → Option (State → State × Reply)
  | [section_] => some (readStatus wasSilent section_)
  | _ => none

/-- The MANAGEMENT_SILENT field shows the condition as this command found it (R168). -/
def execReadStatus (tag : Byte) (args : List Byte) (s : State) : Host.Outcome State Fault Refusal :=
  conclude s (takeCommand tag 0x70 (readStatusAction s.notify.silent args) s)

/-! ### CLEAR_COUNTERS (R148) -/

def Receiver.clear (r : Receiver) : Receiver :=
  { r with framesTaken := 0, framesAborted := 0, lineFaults := 0, strayLines := 0 }

def clearSlot (i : Fin 16) (s : State) : State := s.setSlot i { s.slot i with opened := 0, skipped := 0 }

def clearPort (p : Fin 4) (s : State) : State := s.setPort p { s.port p with recordsSent := 0, rowsDropped := 0 }

/-- The 44 counters and the lost count set to 0 (R148). -/
def clearCounters (s : State) : State × Reply :=
  let s := forPorts clearPort (forSlots clearSlot (s.setReceiver s.receiver.clear))
  (s.setNotify { s.notify with lostCount := 0 }, .done)

def clearCountersAction : List Byte → Option (State → State × Reply)
  | [] => some clearCounters
  | _ => none

def execClearCounters (tag : Byte) (args : List Byte) (s : State) : Host.Outcome State Fault Refusal :=
  conclude s (takeCommand tag 0x71 (clearCountersAction args) s)

/-! ### RESTART (R150, Table 8.3) -/

/-- The receiver's part: a frame in progress is aborted silently; then HUNTING (R40, R42). -/
def restartReceiver (s : State) : State :=
  let s := if s.receiver.state = .inFrame then s.setReceiver s.receiver.abort else s
  s.setReceiver { s.receiver with state := .hunting, silenceTimer := .stopped }

/-- The slot controller's part for one slot: its window frame ended silently, arm count and hold-off counter 0, and its
settled state (R88). -/
def restartSlot (i : Fin 16) (s : State) : State :=
  let s := endSilently i s
  settleSlot i (s.setSlot i { s.slot i with armCount := 0, holdOff := 0 })

/-- The notification unit's part: the queue emptied, the numbering begun again, MANAGEMENT_SILENT left and RESTARTED
appended (R169). -/
def restartNotify (cancelled : Bool) (s : State) : State :=
  reportSilent false
    (s.setNotify { s.notify with
      sent := []
      pending := [s.eventOf .restarted .none 1 (boolCode cancelled)]
      nextSequence := 0
      lostCount := 0
      silent := false })

/-- The state a port takes at RESTART (R125). -/
def Port.restartState (q : Port) : PortState :=
  if q.state = .disabled then .disabled
  else if q.openSet ≠ 0 ∨ q.transmission.isSome then .recovering
  else q.restState

/-- A port that leaves STALLED at RESTART without entering RECOVERING (R125). -/
def Port.leavesStall (q : Port) : Bool := q.state == .stalled && q.restartState != .recovering

/-- The port's part but for its report: queue flushed, hold timer stopped, control count 0, and its new state
(R125). -/
def restartPort (p : Fin 4) (s : State) : State :=
  let s := flushQueue p s
  let q := s.port p
  let s := s.setPort p
    { q with
      holdTimer := .stopped
      controlCount := 0
      state := q.restartState
      stallOutstanding := if q.leavesStall then false else q.stallOutstanding }
  if q.leavesStall ∧ p = s.mgmt then reportTrouble false s else s

/-- The ports that raise PORT_STATE recovered at a RESTART (R125). -/
def recoveredPorts (s : State) : List (Fin 4) :=
  allPorts.filter fun p => (s.port p).leavesStall && (s.port p).stallOutstanding

/-- One element put into its place in a list by a relation. -/
def insertBy {α : Type} (before : α → α → Bool) (a : α) : List α → List α
  | [] => [a]
  | b :: rest => if before a b then a :: b :: rest else b :: insertBy before a rest

/-- A list in the order a relation gives; whatever the relation, the same elements. -/
def orderBy {α : Type} (before : α → α → Bool) : List α → List α
  | [] => []
  | a :: rest => insertBy before a (orderBy before rest)

/-- The reports of the ports that leave STALLED, in an order the manual leaves open (R125; log entry 3, DESIGN CHOICE; safe). -/
def reportRecovered (ps : List (Fin 4)) (s : State) : State :=
  let ps := orderBy (Config.raisesBefore s.choices) ps
  ps.foldl (fun s p => raiseEvent .portState (.port p) 2 0 s) { s with choices := s.choices + 1 }

/-- RESTART carried out: every block's part (Table 8.3). The response queue is emptied; the response is placed at its
head when the taking ends (R150). RESTARTED is appended before any report of a port (R169). -/
def restartPart (s : State) : State × Reply :=
  let cancelled := s.pendingBank.isSome
  let s := restartReceiver s
  let s := { s with pendingBank := none }
  let s := forSlots restartSlot s
  let s := restartNotify cancelled s
  let recovered := recoveredPorts s
  let s := forPorts restartPort s
  let s := reportRecovered recovered s
  ({ s with responses := [] }, .done)

def restartAction : List Byte → Option (State → State × Reply)
  | [] => some restartPart
  | _ => none

def execRestart (tag : Byte) (args : List Byte) (s : State) : Host.Outcome State Fault Refusal :=
  conclude s (takeCommand tag 0x7f (restartAction args) s)

end Sys2Proof.Machine
end

