-- ==== Sys2Proof/Machine/Rows.lean ====
section
/-! DEFINITION. PIXEL and INFO lines (R32 to R35), and how the slots of one row claim their places and blocks while the
egress ports go on (R74, R89, R96). -/

namespace Sys2Proof.Machine

/-! ### Events between the turns of two slots (R96; log entry 21, DEDUCED; unsafe) -/

/-- What the event does: the effect of the command it is. -/
def eventEffect (e : RowEvent) (s : State) : Option State :=
  match e with
  | .completion p => transmissionComplete p s
  | .stall p => holdTimerExpiry p s
  | .recoveryStall p => recoveryHoldExpiry p s
  | .readyRise p => readyRise p s
  | .readyFall p => readyFall p s
  | .restart tag => takeCommand tag 0x7f (restartAction []) s

/-- The event comes about, whole: its effect, and the ports settled after it. -/
def meanwhile (e : RowEvent) (s : State) : State :=
  match eventEffect e s with
  | some t => settle t
  | none => s

/-- What comes about before the turn of slot i: the ports, which do not wait for the row, begin the lines and start the hold
timers that the turns so far gave them (R96, R111, R115), and then the events named for this turn come about, in order. -/
def beforeTurn (during : List (Fin 16 × RowEvent)) (i : Fin 16) (s : State) : State :=
  (during.filter fun x => x.1 == i).foldl (fun s x => meanwhile x.2 s) (settle s)

/-- The slots of one row take their turns in ascending index, each on the state that the turns, the ports and the
events before it left (R74, R96). -/
def forTurns (during : List (Fin 16 × RowEvent)) (turn : Fin 16 → State → State) (s : State) : State :=
  forSlots (fun i s => turn i (beforeTurn during i s)) s

/-! ### Rows (R32 to R34) -/

/-- A taken row (R74, R89, R96). -/
def takeRow (depth : BitVec 2) (r : Nat) (samples : List Half) (during : List (Fin 16 × RowEvent)) (s : State) : State :=
  forTurns during (takeSlot depth r samples) s

/-- The receiver once a PIXEL line has advanced the frame to row r (R32, R34, R37). -/
def Receiver.advance (x : Receiver) (r : Nat) : Receiver := { x with expectedRow := r + 1 }.restartTimer

/-- A sound PIXEL line taken while IN_FRAME (Table 2.2). The events between the slots' turns need a row that is handed to
the segment cutter; without one they have no place (log entry 21). -/
def framePixel (depth : BitVec 2) (r : Nat) (samples : List Half) (during : List (Fin 16 × RowEvent)) (s : State) :
    State :=
  let e := s.receiver.expectedRow
  if r < e then countedFault 5 (kindByte .pixelKind) s
  else
    let advanced := s.setReceiver (s.receiver.advance r)
    if depth = s.receiver.depth then
      takeRow depth r (samples.map (sampleValue depth)) during (missRows e (r - e) advanced)
    else missRows e (r + 1 - e) advanced

/-- A sound PIXEL line (R26, R27, R32 to R34). -/
def ingressPixel (depth : BitVec 2) (row : BitVec 12) (samples : List Half) (during : List (Fin 16 × RowEvent))
    (s : State) : Option State :=
  match s.receiver.state with
  | .noSignal => none
  | .inFrame => some (framePixel depth row.toNat samples during s)
  | _ => some (strayLine .pixelKind s)

def execIngressPixel (depth : BitVec 2) (row : BitVec 12) (samples : LineContent Half) (s : State) :
    Host.Outcome State Fault Refusal :=
  conclude s (ingressPixel depth row samples.items samples.during s)

/-! ### INFO lines (R35) -/

/-- A sound INFO line taken while IN_FRAME (R35), its copies made slot by slot (R96, R97). -/
def frameInfo (payload : List Byte) (during : List (Fin 16 × RowEvent)) (s : State) : State :=
  if payload.length ≤ 256 ∧ s.receiver.infoCount < 4 then
    forTurns during (copyInfo payload)
      (s.setReceiver { s.receiver with infoCount := s.receiver.infoCount + 1 }.restartTimer)
  else countedFault 4 (kindByte .infoKind) s

/-- A sound INFO line (R26, R27, R35). -/
def ingressInfo (payload : List Byte) (during : List (Fin 16 × RowEvent)) (s : State) : Option State :=
  match s.receiver.state with
  | .noSignal => none
  | .inFrame => some (frameInfo payload during s)
  | _ => some (strayLine .infoKind s)

def execIngressInfo (payload : LineContent Byte) (s : State) : Host.Outcome State Fault Refusal :=
  conclude s (ingressInfo payload.items payload.during s)

end Sys2Proof.Machine
end

