-- ==== Sys2Proof/Machine/Dispatch.lean ====
section
/-! DEFINITION. The dispatch: one arm per command. -/

namespace Sys2Proof.Machine

def exec (i : Instr) (s : State) : Host.Outcome State Fault Refusal :=
  match i with
  | .hardReset msel1 msel0 => Sys2Proof.Machine.execHardReset msel1 msel0 s
  | .lockGained => Sys2Proof.Machine.execLockGained s
  | .lockLost => Sys2Proof.Machine.execLockLost s
  | .headerFault => Sys2Proof.Machine.execHeaderFault s
  | .trailerFailure h => Sys2Proof.Machine.execTrailerFailure h s
  | .ingressOpen depth payload => Sys2Proof.Machine.execIngressOpen depth payload s
  | .ingressPixel depth row samples => Sys2Proof.Machine.execIngressPixel depth row samples s
  | .ingressInfo payload => Sys2Proof.Machine.execIngressInfo payload s
  | .ingressClose payload => Sys2Proof.Machine.execIngressClose payload s
  | .strayControlLine channel payload => Sys2Proof.Machine.execStrayControlLine channel payload s
  | .shortCommandLine payload => Sys2Proof.Machine.execShortCommandLine payload s
  | .unknownCommand tag code args => Sys2Proof.Machine.execUnknownCommand tag code args s
  | .echo tag args => Sys2Proof.Machine.execEcho tag args s
  | .writeEntry tag args => Sys2Proof.Machine.execWriteEntry tag args s
  | .readEntry tag args => Sys2Proof.Machine.execReadEntry tag args s
  | .selectBank tag args => Sys2Proof.Machine.execSelectBank tag args s
  | .arm tag args => Sys2Proof.Machine.execArm tag args s
  | .disarm tag args => Sys2Proof.Machine.execDisarm tag args s
  | .setPort tag args => Sys2Proof.Machine.execSetPort tag args s
  | .setLine tag args => Sys2Proof.Machine.execSetLine tag args s
  | .setIngress tag args => Sys2Proof.Machine.execSetIngress tag args s
  | .setEvent tag args => Sys2Proof.Machine.execSetEvent tag args s
  | .setNotify tag args => Sys2Proof.Machine.execSetNotify tag args s
  | .ack tag args => Sys2Proof.Machine.execAck tag args s
  | .readStatus tag args => Sys2Proof.Machine.execReadStatus tag args s
  | .clearCounters tag args => Sys2Proof.Machine.execClearCounters tag args s
  | .restart tag args => Sys2Proof.Machine.execRestart tag args s
  | .frameSilenceExpiry => Sys2Proof.Machine.execFrameSilenceExpiry s
  | .readyRise port => Sys2Proof.Machine.execReadyRise port s
  | .readyFall port => Sys2Proof.Machine.execReadyFall port s
  | .holdTimerExpiry port => Sys2Proof.Machine.execHoldTimerExpiry port s
  | .recoveryHoldExpiry port => Sys2Proof.Machine.execRecoveryHoldExpiry port s
  | .transmissionComplete port => Sys2Proof.Machine.execTransmissionComplete port s
  | .retryTimerExpiry sequence => Sys2Proof.Machine.execRetryTimerExpiry sequence s
  | .triggerPinChange line => Sys2Proof.Machine.execTriggerPinChange line s
  | .filterIntervalExpiry line => Sys2Proof.Machine.execFilterIntervalExpiry line s
  | .triggerEdge line => Sys2Proof.Machine.execTriggerEdge line s

end Sys2Proof.Machine
end

