-- ==== Sys2Proof/Safety.lean ====
section
/-! DEFINITION. The terms in which the statements speak. First the laws that the manual says hold at every moment, block
by block, as predicates of the state: a safe state keeps them all. Then what the manual's recurring acts do, as relations
between the state before and the state after: how a step ends at the transmitters, how window frames end, how a frame
aborts and how one starts. -/

namespace Sys2Proof.Machine

/-! ### The line store (R99) -/

/-- The block numbers held by the four ports, in port order. -/
def State.allHeld (s : State) : List Nat := allPorts.flatMap fun p => (s.port p).heldBlocks

/-- Every block is on the free list or held by exactly one record, and a port's holding is the sum of the blocks of its
records (R99). -/
abbrev State.StoreLaw (s : State) : Prop :=
  (s.freeList ++ s.allHeld).Perm allBlocks ∧ ∀ p : Fin 4, (s.port p).holding = (s.port p).heldBlocks.length

/-! ### Window frames and reservations (R108, R109, and R72: no slot is ACTIVE outside a frame) -/

/-- A slot is ACTIVE with this port in its context. -/
def Slot.routedTo (t : Slot) (p : Fin 4) : Bool :=
  match t.state with
  | .active c => c.port == p
  | _ => false

/-- The number of ACTIVE slots routed to a port. -/
def State.activeOn (s : State) (p : Fin 4) : Nat := (allSlots.filter fun i => (s.slot i).routedTo p).length

abbrev State.WindowLaw (s : State) : Prop :=
  (∀ p : Fin 4, (s.port p).reservations = s.activeOn p) ∧
  (∀ p : Fin 4, (s.port p).queued + (s.port p).reservations ≤ 128) ∧
  (s.receiver.state ≠ .inFrame → ∀ i : Fin 16, (s.slot i).state.isActive = false)

/-! ### Streams (R113) -/

/-- The OPEN (true) and CLOSE (false) records of one stream id among records, in order. -/
def streamMarks (id : BitVec 4) (records : List Record) : List Bool :=
  records.filterMap fun r =>
    if r.stream = id then
      match r.body with
      | .openRecord .. => some true
      | .closeRecord .. => some false
      | _ => none
    else none

/-- The departure records of a port whose transmission counts: a line begun before a hard reset is left aside (R113,
R126). -/
def Port.counted (q : Port) : List Record :=
  if q.transmission.any (·.stale) then q.queue else q.departures

/-- A stream that is open or not, followed through OPENs and CLOSEs: whether it is open after them, if each OPEN finds it
closed and each CLOSE finds it open. -/
def followStream : Bool → List Bool → Option Bool
  | isOpen, [] => some isOpen
  | isOpen, mark :: marks => if mark = isOpen then none else followStream mark marks

/-- An ACTIVE slot holds a port and a stream in its context. -/
abbrev State.cutsStream (s : State) (p : Fin 4) (id : BitVec 4) : Prop :=
  ∃ i : Fin 16, (s.slot i).context.any (fun c => c.port == p && c.stream == id) = true

/-- The window frame of an ACTIVE slot is on the port and stream of its entry, which is enabled (R47, R66). On each port the
OPEN and CLOSE records of a stream id alternate from the open-stream set on, and on an accepting port they leave the stream
open exactly while an ACTIVE slot cuts it (R108, R113). -/
abbrev State.StreamLaw (s : State) : Prop :=
  (∀ i : Fin 16, (s.slot i).context.all (fun c =>
    (s.governing i).enable && c.port == (s.governing i).port && c.stream == (s.governing i).stream) = true) ∧
  ∀ (p : Fin 4) (id : BitVec 4),
    let ends := followStream ((s.port p).openSet.getLsbD id.toNat) (streamMarks id (s.port p).counted)
    ends ≠ none ∧ ((s.port p).accepting = true → (ends = some true ↔ s.cutsStream p id))

/-! ### The window table (R46, R48) and the slots (R64, R65) -/

/-- The fields of an entry are in their ranges (Table 3.1, R49). -/
abbrev Entry.Legal (e : Entry) : Prop :=
  (1 ≤ e.height ∧ e.topRow + e.height ≤ 4096) ∧ (1 ≤ e.width ∧ e.leftColumn + e.width ≤ 4096) ∧ e.holdOff ≤ 15

/-- A pending bank is never the active bank, and both pass the bank-level checks (R46, R48). -/
abbrev State.TableLaw (s : State) : Prop :=
  s.pendingBank ≠ some s.activeBank ∧
  bankFault s.banks[s.activeBank] s.portEnabled = none ∧
  ∀ b : Fin 4, s.pendingBank = some b → bankFault s.banks[b] s.portEnabled = none

/-- Every entry of every bank is legal (R43). -/
abbrev State.EntryLaw (s : State) : Prop := ∀ (b : Fin 4) (i : Fin 16), (s.entry b i).Legal

/-- The bounds of a slot, and its settled state unless it is ACTIVE (R64, R65). -/
abbrev State.SlotLaw (s : State) : Prop :=
  ∀ i : Fin 16, (s.slot i).armCount ≤ 15 ∧ (s.slot i).holdOff ≤ 15 ∧
    ((s.slot i).state.isActive = false → (s.slot i).state = settledState (s.governing i) (s.slot i).armCount)

/-! ### The ingress receiver (R2, R19, R37) -/

/-- The bounds of the receiver; the silence timer runs exactly while IN_FRAME; NO_SIGNAL is the unlocked state. -/
abbrev State.ReceiverLaw (s : State) : Prop :=
  s.receiver.expectedRow ≤ 4096 ∧ s.receiver.infoCount ≤ 4 ∧
  (1 ≤ s.receiver.silenceTimeout ∧ s.receiver.silenceTimeout ≤ 255) ∧
  (s.receiver.silenceTimer.isRunning = true ↔ s.receiver.state = .inFrame) ∧
  (s.laneLocked = true ↔ s.receiver.state ≠ .noSignal)

/-- Every counter is a 16-bit value (R41, R86, R123). -/
abbrev State.CounterLaw (s : State) : Prop :=
  (s.receiver.framesTaken ≤ 65535 ∧ s.receiver.framesAborted ≤ 65535 ∧ s.receiver.lineFaults ≤ 65535 ∧
    s.receiver.strayLines ≤ 65535) ∧
  (∀ i : Fin 16, (s.slot i).opened ≤ 65535 ∧ (s.slot i).skipped ≤ 65535) ∧
  ∀ p : Fin 4, (s.port p).recordsSent ≤ 65535 ∧ (s.port p).rowsDropped ≤ 65535

/-! ### The egress ports (Tables 6.1 and 6.2, R110, R115) -/

/-- What each port state says of the ready level, the line in transmission and the queue. -/
def Port.consistent (q : Port) : Bool :=
  match q.state with
  | .disabled => !q.enable && q.queue.isEmpty && q.transmission.isNone && q.openSet == 0 && q.reservations == 0
  | .idle => q.enable && q.ready && q.transmission.isNone
  | .sending => q.enable && q.transmission.isSome
  | .held => q.enable && !q.ready && q.transmission.isNone
  | .stalled => q.enable && !q.ready && q.transmission.isNone && q.queue.isEmpty && q.reservations == 0
  | .recovering => q.enable && q.queue.isEmpty && q.reservations == 0 && (q.openSet != 0 || q.transmission.isSome)

/-- A port's bounds, its consistency, and nothing left undone: no line it could begin waits (R111), and its hold timer
runs exactly under R115. -/
abbrev State.PortLaw (s : State) : Prop :=
  ∀ p : Fin 4, (s.port p).consistent = true ∧ (s.port p).ceiling ≤ 1024 ∧ (s.port p).holdTimeout ≤ 1000 ∧
    (s.port p).controlCount ≤ 4 ∧
    ((s.port p).mayBegin = true → nextSource s p = none) ∧
    ((s.port p).holdTimer.isRunning = true ↔ (s.holdCondition p = true ∧ 0 < (s.port p).holdTimeout))

/-! ### Responses, notifications, trigger lines, fault line -/

/-- At most sixteen response places are occupied (R142). -/
abbrev State.ResponseLaw (s : State) : Prop := s.outstanding.length ≤ 16

/-- Sequence numbers run up by one, modulo 256, and end just below the next sequence number (R156). -/
def consecutive : Byte → List SentEntry → Bool
  | _, [] => true
  | next, e :: rest => e.sequence + BitVec.ofNat 8 (rest.length + 1) == next && consecutive next rest

/-- The law of the notification queue (R156), its bounds, and that no retry timer runs while MANAGEMENT_SILENT holds
(R163). -/
abbrev NotifyUnit.Law (n : NotifyUnit) : Prop :=
  n.occupancy ≤ 32 ∧ n.sent.length ≤ 8 ∧ consecutive n.nextSequence n.sent = true ∧
  n.pending.Pairwise (fun a b => a.sameKey b = false) ∧ n.lostCount ≤ 255 ∧
  (∀ e ∈ n.pending, 1 ≤ e.repeatCount ∧ e.repeatCount ≤ 255) ∧
  (∀ e ∈ n.sent, e.retryCount ≤ 15) ∧
  (n.silent = true → ∀ e ∈ n.sent, e.retryTimer = .stopped) ∧
  (1 ≤ n.retryInterval ∧ n.retryInterval ≤ 255) ∧ (1 ≤ n.retryLimit ∧ n.retryLimit ≤ 15) ∧
  (n.setting .restarted).enable = true

/-- A line holds at most two edges not yet taken (R129); in INPUT mode an interval is under way exactly while the pin
differs from the filtered level (R128). -/
abbrev State.LineLaw (s : State) : Prop :=
  ∀ n : Fin 4, (s.line n).edges.length ≤ 2 ∧
    ((s.line n).mode = .input →
      ((s.line n).filterInterval.isRunning = true ↔ (s.line n).pin ≠ (s.line n).filteredLevel)) ∧
    ((s.line n).mode ≠ .input → (s.line n).filterInterval = .stopped)

/-- The fault line's conditions are what the two reporting blocks hold (R134). -/
abbrev State.FaultLaw (s : State) : Prop :=
  s.fault.silent = s.notify.silent ∧ s.fault.portTrouble = (s.port s.mgmt).stallOutstanding

/-- A safe state keeps every law. -/
abbrev State.Safe (s : State) : Prop :=
  s.StoreLaw ∧ s.WindowLaw ∧ s.StreamLaw ∧ s.TableLaw ∧ s.EntryLaw ∧ s.SlotLaw ∧ s.ReceiverLaw ∧ s.CounterLaw ∧
  s.PortLaw ∧ s.ResponseLaw ∧ s.notify.Law ∧ s.LineLaw ∧ s.FaultLaw

/-! ### How a step ends: the lines begun and the hold timers (R111, R115, R122; log entries 7 and 8, DEDUCED) -/

/-- The source whose line port p begins when a step has brought the part to u, if it begins one (R111, R122). -/
def State.sendsNext (u : State) (p : Fin 4) : Option Source := if (u.port p).mayBegin then nextSource u p else none

/-- The line of the source is a record of the departure queue. -/
def Source.fromQueue : Source → Bool
  | .departure (.departure _) => true
  | .departure _ => false
  | .response _ => false
  | .notification _ => false

/-- A port once the line of a source has begun on it (R111, R122). -/
def Port.sending (q : Port) (src : Source) (line : EgressLine) : Port :=
  { q with
    state := if q.state = .idle then .sending else q.state
    queue := if src.fromQueue then q.queue.tail else q.queue
    transmission := some ⟨line, false⟩
    controlCount := src.countAfter q.controlCount }

/-- A port once the source it begins, if any, has begun. -/
def State.portSending (u : State) (p : Fin 4) : Port :=
  match u.sendsNext p with
  | some src => (u.port p).sending src (sourceLine u src)
  | none => u.port p

/-- The hold timer that port p has in state t, having had the timer `old`: under R115 it keeps running, starts with the
full timeout, or is stopped. -/
def State.holdTimerFrom (t : State) (p : Fin 4) (old : Timer) : Timer :=
  if t.holdCondition p && decide (0 < (t.port p).holdTimeout) then
    if old.isRunning then old else .running (t.port p).holdTimeout
  else .stopped

/-- A step whose effect has brought the part to u ends in t: each port that may begin a line has begun the one its
transmitter chooses, each hold timer stands as R115 says, and nothing else has changed. -/
structure StepEnds (u t : State) : Prop where
  port : ∀ p : Fin 4, t.port p =
    { u.portSending p with holdTimer := t.holdTimerFrom p (u.port p).holdTimer }
  responses : t.responses = match u.sendsNext u.mgmt with
    | some (.response _) => u.responses.tail
    | _ => u.responses
  notify : t.notify = match u.sendsNext u.mgmt with
    | some (.notification o) => u.notify.begin o
    | _ => u.notify
  rest : t = { u with ports := t.ports, responses := t.responses, notify := t.notify }

/-! ### Commands taken (R137 to R139, R164) -/

/-- A command handed on now is taken: lines arrive, and fewer than sixteen response places are occupied (R138, R142). -/
abbrev State.CanTake (s : State) : Prop := s.receiver.state ≠ .noSignal ∧ s.outstanding.length < 16

/-- The state in which a command taken now is carried out: its line handed off, MANAGEMENT_SILENT left (R137, R139). -/
def State.taken (s : State) : State := leaveSilent (handOff s)

/-! ### Events raised in order (R154, R157) -/

/-- Events as the notification unit takes them, in the order they are raised. -/
def NotifyUnit.takeAll (n : NotifyUnit) (evs : List PendingEntry) : NotifyUnit :=
  evs.foldl (fun n e => if (n.setting e.cls).enable then n.take e else n) n

/-! ### Window frames ending with their CLOSE (R77) -/

/-- The window frames in progress of the chosen slots, in ascending slot index. -/
def State.inProgress (s : State) (chosen : Fin 16 → Bool) : List (Fin 16 × WindowContext) :=
  allSlots.filterMap fun i => if chosen i then (s.slot i).context.map fun c => (i, c) else none

/-- The CLOSE records that window frames ending with a code put on port p. -/
def closesOn (code : CompletionCode) (ends : List (Fin 16 × WindowContext)) (p : Fin 4) : List Record :=
  (ends.filter fun x => x.2.port == p).map fun x => x.2.closeRecord code

/-- The WINDOW_DONE events of window frames ending with a code: the code in bits 15 to 13 of the detail, the rows
delivered in bits 12 to 0. -/
def State.doneEvents (s : State) (code : CompletionCode) (ends : List (Fin 16 × WindowContext)) : List PendingEntry :=
  ends.map fun x =>
    { s.eventOf .windowDone (.slot x.1) 0 0 with detail := windowDoneDetail code x.2.rowsDelivered }

/-- From s to u the window frames `ends` end with a code: each slot settles, each CLOSE takes a reserved place of its
port, each WINDOW_DONE is raised, all in the order of the list, and nothing else changes (R77). -/
structure WindowsEnd (code : CompletionCode) (ends : List (Fin 16 × WindowContext)) (s u : State) : Prop where
  slot : ∀ i : Fin 16, u.slot i =
    if ends.any (fun x => x.1 == i) then
      { s.slot i with state := settledState (s.governing i) (s.slot i).armCount }
    else s.slot i
  port : ∀ p : Fin 4, u.port p =
    { s.port p with
      queue := (s.port p).queue ++ closesOn code ends p
      reservations := (s.port p).reservations - (closesOn code ends p).length }
  notify : u.notify = s.notify.takeAll (s.doneEvents code ends)
  rest : u = { s with slots := u.slots, ports := u.ports, notify := u.notify }

/-! ### Frame abort and frame start (R30, R40, R55, R69, R79) -/

/-- From s to a the ingress frame is aborted with a cause other than RESTART: silence timer stopped, frames aborted
counted, every window frame ended ABORTED, then FRAME_ABORTED raised (R40, R79; the order is log entry 12, DEDUCED). -/
def FrameAborts (cause : Byte) (s a : State) : Prop :=
  ∃ w : State,
    WindowsEnd .aborted (s.inProgress fun _ => true)
      { s with receiver :=
        { s.receiver with silenceTimer := .stopped, framesAborted := satInc s.receiver.framesAborted } } w ∧
    a = { w with notify := w.notify.takeAll [s.eventOf .frameAborted .none cause 0] }

/-- From s to w a new ingress frame has started, up to the openings: the receiver's part, the switch of a pending bank
with its slot resets and BANK_SWITCHED, and the hold-off decrease (R30, R55, R57, R66, R69). -/
structure FrameStarts (depth : BitVec 2) (payload : List Byte) (s w : State) : Prop where
  receiver : w.receiver =
    { s.receiver with
      state := .inFrame
      frameNumber := payload.getD 0 0 ++ payload.getD 1 0
      depth := depth
      expectedRow := 0
      infoCount := 0
      silenceTimer := .running s.receiver.silenceTimeout
      framesTaken := satInc s.receiver.framesTaken }
  active : w.activeBank = s.pendingBank.getD s.activeBank
  slot : ∀ i : Fin 16, w.slot i =
    if s.pendingBank.isSome then
      { s.slot i with
        armCount := 0, holdOff := 0, frameNumber := 0, state := settledState (s.entry w.activeBank i) 0 }
    else { s.slot i with holdOff := (s.slot i).holdOff - 1 }
  notify : w.notify = match s.pendingBank with
    | some b => s.notify.takeAll
      [{ s.eventOf .bankSwitched .none (BitVec.ofNat 8 b.val) 0 with frameNumber := w.receiver.frameNumber }]
    | none => s.notify
  rest : w =
    { s with
      receiver := w.receiver, activeBank := w.activeBank, pendingBank := none, slots := w.slots, notify := w.notify }

end Sys2Proof.Machine
end

