-- ==== Sys2Proof/Certificates/Slice0/Obligations.lean ====
section
/-! DEFINITION. The statements for the provers: each a proposition with the name that OBLIGATIONS.json lists. `StepEnds u t`
(Safety.lean) says exactly how a step whose effect is u ends, so a statement that concludes
"exec c s answers next t, with StepEnds u t" for a u written out gives the whole state after the command. That the ports begin
their lines, and the hold timers meet their conditions, at the end of the whole step is the model's reading of the manual
(log entries 7 and 8, DEDUCED); a statement with `StepEnds` rests on it. The order of reports within an abort and at the end
of a recovery is log entries 12 and 13 (DEDUCED). -/

open Sys2Proof Sys2Proof.Machine

/-! ### The step, and rules of the whole machine -/

/-- The command at the front of the queue is the one carried out, on the state with the rest of the queue; with an empty
queue the block idles. The queue is the model's own (log entries 2 and 11). -/
def Obligations.StepRunsTheFrontCommand : Prop :=
  (∀ (s : State) (c : Instr) (rest : List Instr), s.pending = c :: rest → step s = exec c { s with pending := rest }) ∧
  ∀ s : State, s.pending = [] → step s = .next s

/-- Every command in every state has a next state, and leaves the rest of the queue as it is. That an event which cannot
reach its block changes nothing is the model's choice (log entry 1). -/
def Obligations.EveryCommandHasANextState : Prop :=
  ∀ (c : Instr) (s : State), ∃ t, exec c s = .next t ∧ t.pending = s.pending

/-- Each setting of the part changes only by the command that owns it and at hard reset: the entries (R43), the active
bank (R46), the class settings (R154), the retry settings (R165), the port settings (R120), the line settings (R127), the
silence timeout (R39), the management port (R121); the ready levels only at their pins (R114) and the open-stream sets only
at completions (R113), those between the turns of two slots of a row included (R96, log entry 21), the frame number and
depth only at an OPEN (R19), the lock only by the lock events (R2). -/
def Obligations.EachSettingChangesOnlyByItsCommand : Prop :=
  ∀ (c : Instr) (s t : State), exec c s = .next t → (∀ a b, c ≠ .hardReset a b) →
    let inRow := fun e : RowEvent => ∃ (i : Fin 16) (during : List (Fin 16 × RowEvent)), (i, e) ∈ during ∧
      ((∃ depth row samples, c = .ingressPixel depth row ⟨samples, during⟩) ∨
        ∃ payload, c = .ingressInfo ⟨payload, during⟩)
    t.mgmt = s.mgmt ∧
    (t.banks ≠ s.banks → ∃ tag args, c = .writeEntry tag args) ∧
    (t.activeBank ≠ s.activeBank → ∃ d p, c = .ingressOpen d p) ∧
    (t.notify.settings ≠ s.notify.settings → ∃ tag args, c = .setEvent tag args) ∧
    (t.notify.retryInterval ≠ s.notify.retryInterval ∨ t.notify.retryLimit ≠ s.notify.retryLimit →
      ∃ tag args, c = .setNotify tag args) ∧
    (∀ p : Fin 4, (t.port p).enable ≠ (s.port p).enable ∨ (t.port p).ceiling ≠ (s.port p).ceiling ∨
      (t.port p).holdTimeout ≠ (s.port p).holdTimeout → ∃ tag args, c = .setPort tag args) ∧
    (∀ n : Fin 4, (t.line n).mode ≠ (s.line n).mode ∨ (t.line n).edge ≠ (s.line n).edge ∨
      (t.line n).filter ≠ (s.line n).filter ∨ (t.line n).latch ≠ (s.line n).latch ∨
      (t.line n).boundSlot ≠ (s.line n).boundSlot → ∃ tag args, c = .setLine tag args) ∧
    (t.receiver.silenceTimeout ≠ s.receiver.silenceTimeout → ∃ tag args, c = .setIngress tag args) ∧
    (∀ p : Fin 4, (t.port p).ready ≠ (s.port p).ready →
      c = .readyRise p ∨ c = .readyFall p ∨ inRow (.readyRise p) ∨ inRow (.readyFall p)) ∧
    (∀ p : Fin 4, (t.port p).openSet ≠ (s.port p).openSet → c = .transmissionComplete p ∨ inRow (.completion p)) ∧
    (t.receiver.frameNumber ≠ s.receiver.frameNumber ∨ t.receiver.depth ≠ s.receiver.depth →
      ∃ d p, c = .ingressOpen d p) ∧
    (t.laneLocked ≠ s.laneLocked → c = .lockGained ∨ c = .lockLost)

/-! ### Encoding -/

/-- A line that a source sends is the command it stands for: the bytes of every sound ingress line, judged and decoded,
give back the command with every operand. -/
def Obligations.DecodeOfEncodedLineGivesTheCommand : Prop :=
  ∀ (c : Instr) (bytes : List Byte), c.wellFormed = true → encodeLine c = some bytes → decodeLine bytes = c

/-- A line of the part is its six header bytes, its payload and its trailer. Header bytes 0 to 4 hold kind, stream id or
channel, depth, count and row without gaps from the most significant bit down, the reserved bits zero, and byte 5 is the
complement of their exclusive-OR; the trailer is FFFFh for an empty payload, and each payload byte is combined into its upper
byte and shifted out over 1021h. The bytes of a line whose count is the length of its payload and at most 4096 are judged
sound by a receiver, with the header and the payload sent (R3, R4, R7, R8). -/
def Obligations.SentLinesAreJudgedSound : Prop :=
  (∀ h : LineHeader,
    let kind := match h.kind with
      | .openKind => 0
      | .pixelKind => 1
      | .infoKind => 2
      | .closeKind => 3
      | .controlKind => 4
    let b0 : Byte := BitVec.ofNat 8 (32 * kind + 2 * h.stream.toNat + h.depth.toNat / 2)
    let b1 : Byte := BitVec.ofNat 8 (128 * (h.depth.toNat % 2) + h.count.toNat / 64)
    let b2 : Byte := BitVec.ofNat 8 (4 * (h.count.toNat % 64) + h.row.toNat / 1024)
    let b3 : Byte := BitVec.ofNat 8 (h.row.toNat / 4 % 256)
    let b4 : Byte := BitVec.ofNat 8 (64 * (h.row.toNat % 4))
    headerBytes h = [b0, b1, b2, b3, b4, ~~~(b0 ^^^ b1 ^^^ b2 ^^^ b3 ^^^ b4)]) ∧
  trailerOf [] = 0xffff ∧
  (∀ (payload : List Byte) (b : Byte),
    let shift := fun v : Half => if 32768 ≤ v.toNat then (v <<< 1) ^^^ 0x1021 else v <<< 1
    trailerOf (payload ++ [b]) =
      shift (shift (shift (shift (shift (shift (shift (shift (trailerOf payload ^^^ (b.setWidth 16 <<< 8)))))))))) ∧
  (∀ l : EgressLine, l.bytes = headerBytes l.header ++ l.payload ++
    [(trailerOf l.payload).extractLsb' 8 8, (trailerOf l.payload).extractLsb' 0 8]) ∧
  ∀ l : EgressLine, payloadLength l.header = l.payload.length → l.header.count.toNat ≤ 4096 →
    judgeLine l.bytes = .sound l.header l.payload

/-! ### Laws that hold at every moment -/

/-- The state after hard reset keeps every law. -/
def Obligations.ResetIsSafe : Prop := State.reset.Safe

/-- Every block is on the free list or held by exactly one record, whatever step is taken (R99). -/
def Obligations.EveryStepKeepsTheLineStore : Prop :=
  ∀ s t : State, s.StoreLaw → step s = .next t → t.StoreLaw

/-- Reservations are the window frames in progress, no queue passes 128 places, and no window frame outlives its ingress
frame, whatever step is taken. And on each port the OPEN and CLOSE lines of a stream id alternate from the open-stream set
on, a line begun before a hard reset left aside, and on an accepting port they leave the stream open exactly while an ACTIVE
slot has that port and stream in its context (R72, R108, R109, R113). -/
def Obligations.EveryStepKeepsTheWindowFrames : Prop :=
  (∀ s t : State, s.WindowLaw → step s = .next t → t.WindowLaw) ∧
  ∀ s t : State, s.WindowLaw → s.TableLaw → s.SlotLaw → s.PortLaw → s.StreamLaw → step s = .next t → t.StreamLaw

/-- The active bank and any pending bank pass the bank-level checks, and they differ, whatever step is taken (R46,
R48). -/
def Obligations.EveryStepKeepsTheBankChecks : Prop :=
  ∀ s t : State, s.TableLaw → step s = .next t → t.TableLaw

/-- Entries stay in range, slots stay in their bounds, and a slot that is not ACTIVE is in its settled state, whatever
step is taken: OFF under a disabled entry, READY under a CONTINUOUS one, and under an ARMED one UNARMED with arm count 0 and
READY above it (R43, R64, R65). -/
def Obligations.EveryStepKeepsEntriesAndSlots : Prop :=
  ∀ s t : State, s.EntryLaw ∧ s.SlotLaw → step s = .next t →
    (t.EntryLaw ∧ t.SlotLaw) ∧
    ∀ i : Fin 16, (∀ c, (t.slot i).state ≠ .active c) →
      let e := t.entry t.activeBank i
      (t.slot i).state =
        if e.enable = false then .off
        else if e.mode = .continuous then .ready
        else if (t.slot i).armCount = 0 then .unarmed
        else .ready

/-- The receiver's bounds, its timer and its lock, and every counter's bound, whatever step is taken (R19, R37, R41,
R86, R123). -/
def Obligations.EveryStepKeepsReceiverAndCounters : Prop :=
  ∀ s t : State, s.ReceiverLaw ∧ s.CounterLaw → step s = .next t → t.ReceiverLaw ∧ t.CounterLaw

/-- Whatever step is taken, each port's state agrees with its ready level, line and queue; its hold timer runs exactly
while its timeout is above 0 and it is HELD with work waiting, or RECOVERING with ready low and no line in transmission; an
IDLE port has no work waiting, and a RECOVERING one with ready high has a line in transmission. Work waiting is a departure
record, and on the management port also a response or a notification on offer (Tables 6.1 and 6.2, R110, R111, R115). -/
def Obligations.EveryStepKeepsThePorts : Prop :=
  ∀ s t : State, s.WindowLaw → s.PortLaw → step s = .next t →
    t.PortLaw ∧
    ∀ p : Fin 4,
      let q := t.port p
      let work := q.queue ≠ [] ∨ (p = t.mgmt ∧ (t.responses ≠ [] ∨ t.notify.offer ≠ none))
      (q.holdTimer.isRunning = true ↔ 0 < q.holdTimeout ∧
        ((q.state = .held ∧ work) ∨ (q.state = .recovering ∧ q.ready = false ∧ q.transmission = none))) ∧
      (q.state = .idle → ¬work) ∧
      (q.state = .recovering → q.ready = true → q.transmission ≠ none)

/-- At most sixteen response places are occupied, and the fault line's conditions are what the notification unit and the
management port hold, whatever step is taken (R134, R142). -/
def Obligations.EveryStepKeepsResponsesAndFaultLine : Prop :=
  ∀ s t : State, s.ResponseLaw ∧ s.FaultLaw → step s = .next t → t.ResponseLaw ∧ t.FaultLaw

/-- The notification queue's law: at most 32 entries, at most 8 unacknowledged with consecutive sequence numbers, no two
pending entries of one class and subject, no retry timer in MANAGEMENT_SILENT, whatever step is taken (R156, R163). -/
def Obligations.EveryStepKeepsTheNotificationQueue : Prop :=
  ∀ s t : State, s.notify.Law → step s = .next t → t.notify.Law

/-- Each trigger line holds at most two edges, and in INPUT mode a filter interval is under way exactly while the pin
differs from the filtered level, whatever step is taken (R128, R129). -/
def Obligations.EveryStepKeepsTheTriggerLines : Prop :=
  ∀ s t : State, s.LineLaw → step s = .next t → t.LineLaw

/-! ### Choices of the transmitters and the notification unit -/

/-- The arbiter of the management port takes the first of its rules that applies; another port has its departure work
alone; the departure work of a RECOVERING port is the close owed for the lowest id, and none with an empty set; of another
the head record. A port may begin a line in IDLE or RECOVERING with ready high and no line in transmission (a HELD or
SENDING port passes through IDLE in the step, log entry 7). A line begun takes a record of the queue from its head, leaves
IDLE for SENDING, and sets the control count: one more up to 4 for a response or a notification, 0 for a departure record
(R111, R118, R122). -/
def Obligations.ArbiterTakesTheFirstRuleThatApplies : Prop :=
  (∀ (s : State) (l : EgressLine), (s.port s.mgmt).departureOffer = some l → (s.port s.mgmt).controlCount = 4 →
    nextSource s s.mgmt = some (.departure l)) ∧
  (∀ (s : State) (r : Response) (rest : List Response),
    (s.port s.mgmt).departureOffer = none ∨ (s.port s.mgmt).controlCount ≠ 4 → s.responses = r :: rest →
    nextSource s s.mgmt = some (.response r)) ∧
  (∀ (s : State) (o : Offer),
    (s.port s.mgmt).departureOffer = none ∨ (s.port s.mgmt).controlCount ≠ 4 → s.responses = [] →
    s.notify.offer = some o → nextSource s s.mgmt = some (.notification o)) ∧
  (∀ s : State, s.responses = [] → s.notify.offer = none →
    nextSource s s.mgmt = (s.port s.mgmt).departureOffer.map .departure) ∧
  (∀ (s : State) (p : Fin 4), p ≠ s.mgmt → nextSource s p = (s.port p).departureOffer.map .departure) ∧
  (∀ q : Port, q.state ≠ .recovering → q.departureOffer = q.queue.head?.map .departure) ∧
  (∀ (q : Port) (id : BitVec 4), q.state = .recovering → q.openSet.getLsbD id.toNat = true →
    (∀ j : BitVec 4, j < id → q.openSet.getLsbD j.toNat = false) → q.departureOffer = some (.abandonedClose id)) ∧
  (∀ q : Port, q.state = .recovering → q.openSet = 0 → q.departureOffer = none) ∧
  (∀ q : Port, q.mayBegin = true ↔
    (q.state = .idle ∨ q.state = .recovering) ∧ q.ready = true ∧ q.transmission = none) ∧
  (∀ (s : State) (p : Fin 4), s.sendsNext p = if (s.port p).mayBegin = true then nextSource s p else none) ∧
  (∀ (s : State) (l : EgressLine) (r : Response),
    sourceLine s (.departure l) = l ∧ sourceLine s (.response r) = .response r) ∧
  ∀ (q : Port) (line : EgressLine),
    let begun : Port :=
      { q with state := if q.state = .idle then .sending else q.state, transmission := some ⟨line, false⟩ }
    (∀ r : Record, q.sending (.departure (.departure r)) line = { begun with queue := q.queue.tail, controlCount := 0 }) ∧
    (∀ id : BitVec 4, q.sending (.departure (.abandonedClose id)) line = { begun with controlCount := 0 }) ∧
    (∀ r : Response, q.sending (.response r) line =
      { begun with controlCount := if q.controlCount < 4 then q.controlCount + 1 else 4 }) ∧
    ∀ o : Offer, q.sending (.notification o) line =
      { begun with controlCount := if q.controlCount < 4 then q.controlCount + 1 else 4 }

/-- The notification unit offers the first eligible entry in the order URGENT due, URGENT pending, ROUTINE due, ROUTINE
pending; and while an URGENT entry is unacknowledged it offers no ROUTINE entry. The beginning of a first transmission takes
the next sequence number and carries the lost count, which returns to 0: the entry becomes unacknowledged, with retry count
0, not due, in transmission. The beginning of another clears due and keeps sequence, loss count and retry count. The line
sent holds the entry with its sequence and loss count (R158 to R161). -/
def Obligations.OfferIsTheFirstEligibleEntry : Prop :=
  (∀ n : NotifyUnit,
    let due := fun p => (n.sent.filter fun e => e.due && !e.inTransmission && e.base.priority == p).map Offer.again
    let waiting := fun p =>
      if n.sent.length < 8 then (n.pending.filter fun e => e.priority == p).map Offer.first else []
    let routine := if n.sent.any (fun e => e.base.priority == .urgent) then [] else due .routine ++ waiting .routine
    n.offer = if n.silent then none else (due .urgent ++ waiting .urgent ++ routine).head?) ∧
  (∀ (n : NotifyUnit) (e : SentEntry), e ∈ n.sent → e.base.priority = .urgent →
    (∀ x, n.offer = some (.first x) → x.priority = .urgent) ∧ ∀ x, n.offer = some (.again x) → x.base.priority = .urgent) ∧
  (∀ (n : NotifyUnit) (before after : List PendingEntry) (e : PendingEntry), n.pending = before ++ e :: after → e ∉ before →
    n.begin (.first e) = { n with
      pending := before ++ after
      sent := n.sent ++ [{ base := e, sequence := n.nextSequence, lossCount := n.lostCount, retryCount := 0, due := false
                           retryTimer := .stopped, inTransmission := true }]
      nextSequence := n.nextSequence + 1
      lostCount := 0 }) ∧
  (∀ (n : NotifyUnit) (older newer : List SentEntry) (e : SentEntry), n.sent = older ++ e :: newer →
    (∀ x ∈ older ++ newer, x.sequence ≠ e.sequence) →
    n.begin (.again e) = { n with sent := older ++ { e with due := false, inTransmission := true } :: newer }) ∧
  ∀ (s : State) (p : PendingEntry) (e : SentEntry),
    sourceLine s (.notification (.first p)) = .notification ⟨s.notify.nextSequence, p, s.notify.lostCount⟩ ∧
    sourceLine s (.notification (.again e)) = .notification ⟨e.sequence, e.base, e.lossCount⟩

/-- An event is ignored in a disabled class, coalesced into the one pending entry of its class and subject, appended, or
lost; nothing outside the notification unit changes (R154, R157, R158). -/
def Obligations.EventIsIgnoredCoalescedAppendedOrLost : Prop :=
  ∀ (c : EventClass) (sub : Subject) (hi lo : Byte) (s : State),
    let ev : PendingEntry := ⟨c, sub, (s.notify.setting c).priority, 1, hi ++ lo, s.receiver.frameNumber⟩
    ((s.notify.setting c).enable = false → raiseEvent c sub hi lo s = s) ∧
    ((s.notify.setting c).enable = true →
      (∀ (before after : List PendingEntry) (e : PendingEntry), s.notify.pending = before ++ e :: after →
        e.cls = c → e.subject = sub → (∀ x ∈ before ++ after, ¬(x.cls = c ∧ x.subject = sub)) →
        raiseEvent c sub hi lo s = { s with notify := { s.notify with
          pending := before ++ { e with
            repeatCount := if e.repeatCount < 255 then e.repeatCount + 1 else 255
            detail := ev.detail
            frameNumber := ev.frameNumber } :: after } }) ∧
      ((∀ x ∈ s.notify.pending, ¬(x.cls = c ∧ x.subject = sub)) →
        raiseEvent c sub hi lo s = { s with notify :=
          if s.notify.sent.length + s.notify.pending.length < 32 then
            { s.notify with pending := s.notify.pending ++ [ev] }
          else { s.notify with lostCount := min (s.notify.lostCount + 1) 255 } }))

/-! ### Windows: covered rows, segments, openings -/

/-- The rows a window covers: those at the top row plus a multiple of the row step, as many as the expected rows; each
has its output row index, and the last covered row is the last of them and lies below 4096 (R73). -/
def Obligations.CoveredRowsAreNumberedFromZero : Prop :=
  ∀ (e : Entry) (number : Half), e.Legal →
    let c := e.openContext number
    (∀ r : Nat, c.covers r = true ↔ ∃ k : Nat, k < c.expectedRows ∧ r = e.topRow + k * e.rowStep.toNat) ∧
    (∀ k : Nat, k < c.expectedRows → c.outputRow (e.topRow + k * e.rowStep.toNat) = k) ∧
    1 ≤ c.expectedRows ∧ c.lastCoveredRow = e.topRow + (c.expectedRows - 1) * e.rowStep.toNat ∧
    c.lastCoveredRow ≤ 4095

/-- A segment holds the samples of the columns from the left column on, one every column step, as far as the width and
the row reach; a row that reaches the window's right limit gives the full output width (R90). -/
def Obligations.SegmentTakesEveryStepthColumn : Prop :=
  ∀ (c : WindowContext) (samples : List Half),
    let m := min (c.leftColumn + c.width) samples.length
    (c.segment samples).length = (if m ≤ c.leftColumn then 0 else ceilDiv (m - c.leftColumn) c.columnStep.toNat) ∧
    (∀ k : Nat, k < (c.segment samples).length →
      (c.segment samples)[k]? = samples[c.leftColumn + k * c.columnStep.toNat]?) ∧
    (c.leftColumn + c.width ≤ samples.length → (c.segment samples).length = ceilDiv c.width c.columnStep.toNat)

/-- A READY slot asks its port for an opening: granted, with its context, OPEN record and reservation, if the port is
accepting and has two unreserved places; refused otherwise, with the skip counted and reported. Any other slot does not
ask (R67, R68, R70, R71). -/
def Obligations.ReadySlotOpensOrIsSkipped : Prop :=
  ∀ (i : Fin 16) (s : State),
    let e := s.governing i
    let x := s.slot i
    let q := s.port e.port
    let expected := ceilDiv e.height e.rowStep.toNat
    let width := ceilDiv e.width e.columnStep.toNat
    let accepting := q.state = .idle ∨ q.state = .sending ∨ q.state = .held
    (x.state ≠ .ready → askOpening i s = s) ∧
    (x.state = .ready → accepting → q.queued + q.reservations ≤ 126 →
      askOpening i s =
        (s.setPort e.port { q with
          queue := q.queue ++ [⟨e.stream, .openRecord s.receiver.depth x.frameNumber s.receiver.frameNumber width expected i
            s.activeBank⟩]
          reservations := q.reservations + 1 }).setSlot i
        { state := .active
            { topRow := e.topRow, height := e.height, leftColumn := e.leftColumn, width := e.width
              rowStep := e.rowStep, columnStep := e.columnStep, port := e.port, stream := e.stream
              carryInfo := e.carryInfo, expectedRows := expected, outputWidth := width
              lastCoveredRow := e.topRow + (expected - 1) * e.rowStep.toNat
              openNumber := x.frameNumber, rowsDelivered := 0, clipped := false, deficient := false }
          armCount := if e.mode = .armed then x.armCount - 1 else x.armCount
          holdOff := if e.mode = .armed then e.holdOff else x.holdOff
          frameNumber := x.frameNumber + 1
          opened := min (x.opened + 1) 65535
          skipped := x.skipped }) ∧
    (x.state = .ready → ¬(accepting ∧ q.queued + q.reservations ≤ 126) →
      askOpening i s =
        { s.setSlot i { x with skipped := min (x.skipped + 1) 65535 } with
          notify := s.notify.takeAll [s.eventOf .windowSkipped (.slot i)
            (if q.state = .idle ∨ q.state = .sending ∨ q.state = .held then 2 else 1)
            (BitVec.ofNat 8 e.port.val)] })

/-- The segment of a covered row for one ACTIVE slot: CLIPPED if it is short; then enqueued as a PIXEL record, with its
blocks from the front of the free list, if the port has an unreserved place and the store grants the blocks; otherwise
dropped, with DEFICIENT, SEGMENT_DROPPED and the rows-dropped counter (R91 to R95, R100). -/
def Obligations.CoveredRowIsEnqueuedOrDropped : Prop :=
  ∀ (depth : BitVec 2) (r : Nat) (samples : List Half) (i : Fin 16) (s : State) (c : WindowContext),
    (s.slot i).state = .active c →
    let q := s.port c.port
    let segment := c.segment samples
    let k := ceilDiv segment.length 64
    let marked : WindowContext := { c with clipped := c.clipped || decide (segment.length < c.outputWidth) }
    let placeFree := q.queued + q.reservations < 128
    let granted := k = 0 ∨ (k ≤ s.freeList.length ∧ q.holding + k ≤ q.ceiling)
    (placeFree → granted → ∃ blocks : List Block, blocks.map (·.id) = s.freeList.take k ∧
      blocks.flatMap (·.bytes) = packSamples depth segment ∧
      cutSegment depth r samples i c s =
        { (s.setPort c.port { q with
            queue := q.queue ++ [⟨c.stream, .pixelRecord depth (c.outputRow r) segment.length blocks⟩]
            holding := q.holding + k }).setSlot i
          { s.slot i with state := .active { marked with rowsDelivered := c.rowsDelivered + 1 } } with
          freeList := s.freeList.drop k }) ∧
    (¬(placeFree ∧ granted) →
      cutSegment depth r samples i c s =
        { (s.setPort c.port { q with rowsDropped := min (q.rowsDropped + 1) 65535 }).setSlot i
          { s.slot i with state := .active { marked with deficient := true } } with
          notify := s.notify.takeAll [s.eventOf .segmentDropped (.port c.port)
            (if q.queued + q.reservations < 128 then 3 else 2) (BitVec.ofNat 8 i.val)] })

/-- A missed row sets DEFICIENT on every window frame in progress that covers it and ends, COMPLETE and in ascending slot
index, those whose last covered row has gone by; nothing else changes. A run of missed rows is dealt with row by row,
ascending, each for all slots before the next (R75). -/
def Obligations.MissedRowMarksAndEndsWindowFrames : Prop :=
  (∀ (r : Nat) (s : State), ∃ m : State,
    (∀ i : Fin 16, m.slot i =
      match (s.slot i).state with
      | .active c => { s.slot i with state := .active { c with deficient := c.deficient || c.covers r } }
      | _ => s.slot i) ∧
    m = { s with slots := m.slots } ∧
    WindowsEnd .complete
      (m.inProgress fun i => match (m.slot i).context with
        | some c => decide (c.lastCoveredRow ≤ r)
        | none => false)
      m (missRow r s)) ∧
  (∀ (r : Nat) (s : State), missRows r 0 s = s) ∧
  ∀ (first count : Nat) (s : State), missRows first (count + 1) s = missRow (first + count) (missRows first count s)

/-- A taken row for one slot: an ACTIVE slot that covers it has its segment cut, and the ports go on at once; then every
ACTIVE slot, covering or not, meets the end test; a slot that is not ACTIVE takes no part. A row is dealt with slot by slot in
ascending index. Before each turn the ports have begun the lines and started the hold timers that the turns so far gave
them, as at the end of a step, and then the events come about that fall before the turn: a completion, a stall, a change of
ready or a RESTART is there what it is as a command of its own, whole. That the ports go on at these places is log entry 7,
that events inside a row come with its line, and that these are all, is log entry 21 (both DEDUCED) (R74, R76, R89, R96,
R111). -/
def Obligations.TakenRowMeetsEachActiveSlotInTurn : Prop :=
  (∀ (depth : BitVec 2) (r : Nat) (samples : List Half) (i : Fin 16) (s : State),
    ((∀ c, (s.slot i).state ≠ .active c) → takeSlot depth r samples i s = s) ∧
    ∀ c, (s.slot i).state = .active c → ∃ cut : State,
      (c.covers r = true → StepEnds (cutSegment depth r samples i c s) cut) ∧ (c.covers r = false → cut = s) ∧
      (c.lastCoveredRow ≤ r → takeSlot depth r samples i s = endWindow .complete i cut) ∧
      (r < c.lastCoveredRow → takeSlot depth r samples i s = cut)) ∧
  (∀ (depth : BitVec 2) (r : Nat) (samples : List Half) (during : List (Fin 16 × RowEvent)) (s : State),
    takeRow depth r samples during s =
      (List.finRange 16).foldl (fun s i => takeSlot depth r samples i (beforeTurn during i s)) s) ∧
  (∀ (i : Fin 16) (s : State), StepEnds s (beforeTurn [] i s)) ∧
  (∀ (i j : Fin 16) (e : RowEvent) (during : List (Fin 16 × RowEvent)) (s : State),
    beforeTurn (during ++ [(j, e)]) i s =
      if j = i then meanwhile e (beforeTurn during i s) else beforeTurn during i s) ∧
  ∀ (e : RowEvent) (s : State),
    exec (match e with
      | .completion p => .transmissionComplete p
      | .stall p => .holdTimerExpiry p
      | .recoveryStall p => .recoveryHoldExpiry p
      | .readyRise p => .readyRise p
      | .readyFall p => .readyFall p
      | .restart tag => .restart tag []) s = .next (meanwhile e s)

/-! ### The window table -/

/-- The checks of a written record, single fields before pairs, each pass in its order, and the entry stored when all
hold; the reserved bits play no part (R16, R49). -/
def Obligations.RecordIsCheckedFieldsFirstThenPairs : Prop :=
  ∀ (flags ps st tr : Byte) (top height left width : Half),
    let port := (ps.toNat / 16)
    let rowCode := st.toNat / 64
    let columnCode := st.toNat / 16 % 4
    let source := tr.toNat / 32
    let stepOfCode : Nat → StepSize := fun c => if c = 0 then .one else if c = 1 then .two else .four
    entryOfRecord ⟨flags, top, height, left, width, ps, st, tr⟩ =
      if height.toNat = 0 ∨ 4096 < height.toNat then .error 5
      else if width.toNat = 0 ∨ 4096 < width.toNat then .error 7
      else if h : 4 ≤ port then .error 8
      else if rowCode = 3 ∨ columnCode = 3 then .error 9
      else if h5 : 5 ≤ source then .error 10
      else if 4096 < top.toNat + height.toNat then .error 4
      else if 4096 < left.toNat + width.toNat then .error 6
      else .ok
        { enable := flags.toNat / 128 % 2 = 1
          mode := if flags.toNat / 64 % 2 = 1 then .armed else .continuous
          policy := if flags.toNat / 32 % 2 = 1 then .restart else .keep
          carryInfo := flags.toNat / 16 % 2 = 1
          topRow := top.toNat
          height := height.toNat
          leftColumn := left.toNat
          width := width.toNat
          port := ⟨port, by omega⟩
          stream := BitVec.ofNat 4 ps.toNat
          rowStep := stepOfCode rowCode
          columnStep := stepOfCode columnCode
          trigger := if hs : source = 0 then none else some ⟨source - 1, by omega⟩
          holdOff := tr.toNat % 16 }

/-- The record of a legal entry, written back, gives the entry: twelve bytes that WRITE_ENTRY accepts; and its reserved bits
are zero: bits 3 to 0 of byte 0, bits 3 to 0 of byte 10 and bit 4 of byte 11 (R16, R51). -/
def Obligations.RecordOfAnEntryReadsBack : Prop :=
  ∀ e : Entry, e.Legal → e.record.length = 12 ∧ (∃ r, rawRecord e.record = some r ∧ entryOfRecord r = .ok e) ∧
    ((e.record.getD 0 0).toNat % 16 = 0 ∧ (e.record.getD 10 0).toNat % 16 = 0 ∧ (e.record.getD 11 0).toNat / 16 % 2 = 0)

/-- The bank-level checks pass exactly when no two enabled entries share port and stream and every enabled entry names an
enabled port; otherwise the first failing entry in ascending index is reported, a disabled port before a duplicate
(R45). -/
def Obligations.BankChecksReportTheFirstFailingEntry : Prop :=
  ∀ (bank : Vector Entry 16) (enabled : Fin 4 → Bool),
    let shares := fun i j : Fin 16 => bank[j].enable = true ∧ bank[i].port = bank[j].port ∧ bank[i].stream = bank[j].stream
    let fails := fun i : Fin 16 => bank[i].enable = true ∧ (enabled bank[i].port = false ∨ ∃ j, j < i ∧ shares i j)
    (bankFault bank enabled = none ↔
      (∀ i j : Fin 16, bank[i].enable = true → shares i j → i = j) ∧
        ∀ i : Fin 16, bank[i].enable = true → enabled bank[i].port = true) ∧
    ∀ (i : Fin 16) (cause : Byte), bankFault bank enabled = some (i, cause) ↔
      fails i ∧ (∀ j, j < i → ¬fails j) ∧ cause = if enabled bank[i].port = false then 2 else 1

/-! ### Payloads and snapshots -/

/-- The lines the part sends, header and payload: a response on channel 0, a notification on channel 1 with the codes of
its class, priority and subject, the OPEN, PIXEL, INFO and CLOSE records of a window frame, a PIXEL or INFO record's payload
being the bytes of its blocks in order, and the CLOSE of a recovery. Samples are packed one byte at depth 8 and two bytes
above, most significant first; of a received sample the low depth bits count (Tables 1.1, 1.3, 1.6, 1.7, 1.8, 1.10, 1.15,
1.16; R5, R6, R11, R12, R13, R17, R141, R161). -/
def Obligations.LinesSentAreLaidOutAsTheirTables : Prop :=
  let two := fun x : Half => [x.extractLsb' 8 8, x.extractLsb' 0 8]
  (∀ r : Response, r.payload = [r.tag, r.code, r.reply.result.code, r.reply.detail] ++ r.reply.data) ∧
  (∀ n : Notification, n.payload =
    [n.sequence, n.base.cls.code, if n.base.priority = .urgent then 1 else 0, BitVec.ofNat 8 n.base.repeatCount,
      match n.base.subject with
      | .none => 0xff
      | .slot i => BitVec.ofNat 8 i.val
      | .port p => 0x20 + BitVec.ofNat 8 p.val,
      BitVec.ofNat 8 n.lossCount] ++ two n.base.frameNumber ++ two n.base.detail) ∧
  [EventClass.restarted, .bankSwitched, .signalChange, .frameAborted, .lineFault, .windowDone, .windowSkipped,
    .segmentDropped, .portState, .triggerRefused, .commandLost].map EventClass.code =
      [0x01, 0x02, 0x03, 0x04, 0x05, 0x06, 0x07, 0x08, 0x09, 0x0a, 0x0b] ∧
  [Result.done, .noChange, .cancelled, .badArgument, .badLength, .unknownCommand, .bankLive, .bankPending, .busy,
    .invalidTable, .portInUse, .mgmtPort, .unknownSequence].map Result.code =
      [0x00, 0x01, 0x02, 0x10, 0x11, 0x12, 0x20, 0x21, 0x22, 0x23, 0x30, 0x31, 0x40] ∧
  (∀ (stream : BitVec 4) (depth : BitVec 2) (wn fn : Half) (width rows : Nat) (i : Fin 16) (b : Fin 4),
    (EgressLine.departure ⟨stream, .openRecord depth wn fn width rows i b⟩).payload =
      two wn ++ two fn ++ two (BitVec.ofNat 16 width) ++ two (BitVec.ofNat 16 rows)
        ++ [BitVec.ofNat 8 i.val, BitVec.ofNat 8 b.val] ∧
    (EgressLine.departure ⟨stream, .openRecord depth wn fn width rows i b⟩).header = ⟨.openKind, stream, depth, 10, 0⟩) ∧
  (∀ (stream : BitVec 4) (wn : Half) (code : CompletionCode) (clipped deficient : Bool) (rows : Nat),
    (EgressLine.departure ⟨stream, .closeRecord wn code clipped deficient rows⟩).payload =
      two wn ++ [match code with
        | .complete => 0
        | .cut => 1
        | .aborted => 2
        | .abandoned => (3 : Byte),
        BitVec.ofNat 8 (clipped.toNat + 2 * deficient.toNat)] ++ two (BitVec.ofNat 16 rows) ∧
    (EgressLine.departure ⟨stream, .closeRecord wn code clipped deficient rows⟩).header = ⟨.closeKind, stream, 0, 6, 0⟩) ∧
  (∀ stream : BitVec 4, (EgressLine.abandonedClose stream).payload = [0, 0, 3, 0, 0, 0] ∧
    (EgressLine.abandonedClose stream).header = ⟨.closeKind, stream, 0, 6, 0⟩) ∧
  (∀ (stream : BitVec 4) (depth : BitVec 2) (row count : Nat) (blocks : List Block),
    let l := EgressLine.departure ⟨stream, .pixelRecord depth row count blocks⟩
    l.header = ⟨.pixelKind, stream, depth, BitVec.ofNat 13 count, BitVec.ofNat 12 row⟩ ∧
    l.payload = blocks.flatMap (·.bytes)) ∧
  (∀ (stream : BitVec 4) (count : Nat) (blocks : List Block),
    let l := EgressLine.departure ⟨stream, .infoRecord count blocks⟩
    l.header = ⟨.infoKind, stream, 0, BitVec.ofNat 13 count, 0⟩ ∧ l.payload = blocks.flatMap (·.bytes)) ∧
  (∀ r : Response, (EgressLine.response r).payload = r.payload ∧
    (EgressLine.response r).header = ⟨.controlKind, 0, 0, BitVec.ofNat 13 (4 + r.reply.data.length), 0⟩) ∧
  (∀ n : Notification, (EgressLine.notification n).payload = n.payload ∧
    (EgressLine.notification n).header = ⟨.controlKind, 1, 0, 10, 0⟩) ∧
  (∀ (depth : BitVec 2) (samples : List Half),
    packSamples depth samples = samples.flatMap fun x => if depth = 0 then [x.extractLsb' 0 8] else two x) ∧
  ∀ (depth : BitVec 2) (x : Half), (sampleValue depth x).toNat =
    x.toNat % (if depth = 0 then 2 ^ 8 else if depth = 1 then 2 ^ 10 else if depth = 2 then 2 ^ 12 else 2 ^ 16)

/-- The snapshots of READ_STATUS, byte by byte; the level of a line in INPUT mode is its filtered level, in an output mode
the level the part drives; the fault line is asserted while either condition is yes (Tables 1.17, 1.18 and 7.2; R18,
R58, R87, R104, R124, R130, R133, R134, R168). -/
def Obligations.SnapshotsAreLaidOutAsTheirTable : Prop :=
  let two := fun x : Half => [x.extractLsb' 8 8, x.extractLsb' 0 8]
  let num := fun n : Nat => two (BitVec.ofNat 16 n)
  let one := fun n : Nat => (BitVec.ofNat 8 n : Byte)
  let bit := fun b : Bool => (if b then 1 else 0 : Byte)
  ∀ s : State,
    (ingressSnapshot s =
      [match s.receiver.state with
        | .noSignal => 0
        | .hunting => 1
        | .betweenFrames => 2
        | .inFrame => (3 : Byte)] ++ two s.receiver.frameNumber ++ [one s.receiver.depth.toNat] ++ num s.receiver.expectedRow
        ++ [one s.receiver.infoCount, one s.receiver.silenceTimeout] ++ num s.receiver.framesTaken
        ++ num s.receiver.framesAborted ++ num s.receiver.lineFaults ++ num s.receiver.strayLines) ∧
    (tableSnapshot s = [one s.activeBank.val, (s.pendingBank.map fun b => one b.val).getD 0xff]) ∧
    (∀ i : Fin 16, ((slotsSnapshot s).drop (9 * i.val)).take 9 =
      [match (s.slot i).state with
        | .off => 0
        | .unarmed => 1
        | .ready => 2
        | .active _ => (3 : Byte),
        one (s.slot i).armCount, one (s.slot i).holdOff] ++ two (s.slot i).frameNumber ++ num (s.slot i).opened
        ++ num (s.slot i).skipped) ∧
    (∀ n : Fin 4, ((linesSnapshot s).drop (6 * n.val)).take 6 =
      let l := s.line n
      [match l.mode with
        | .input => 0
        | .outLatch => 1
        | .outWindow => (2 : Byte),
        match l.edge with
        | .rising => 0
        | .falling => 1
        | .both => 2,
        match l.filter with
        | .us0 => 0
        | .us1 => 1
        | .us10 => 2
        | .us100 => 3,
        bit l.latch, one l.boundSlot.val,
        bit (match l.mode with
          | .input => l.filteredLevel
          | .outLatch => l.latch
          | .outWindow => (s.slot l.boundSlot).state.isActive)]) ∧
    (linesSnapshot s).drop 24 = [bit (s.fault.silent || s.fault.portTrouble)] ∧
    (∀ wasSilent : Bool, (notifySnapshot wasSilent s).take 7 =
        [s.notify.nextSequence, one s.notify.lostCount, one s.notify.retryInterval, one s.notify.retryLimit,
          bit wasSilent, one s.notify.pending.length, one s.notify.sent.length] ∧
      ∀ c : EventClass, ((notifySnapshot wasSilent s).drop (5 + 2 * c.code.toNat)).take 2 =
        [bit (s.notify.setting c).enable, if (s.notify.setting c).priority = .urgent then 1 else 0]) ∧
    ∀ p : Fin 4, portSnapshot p s =
      let q := s.port p
      [match q.state with
        | .disabled => 0
        | .idle => 1
        | .sending => 2
        | .held => 3
        | .stalled => 4
        | .recovering => (5 : Byte),
        bit q.enable] ++ num q.ceiling ++ num q.holdTimeout ++ [one q.queued, one q.reservations] ++ num q.holding
        ++ two q.openSet ++ num q.recordsSent ++ num q.rowsDropped ++ num s.freeList.length

/-! ### Commands -/

/-- ECHO, with at most 252 argument bytes: the line is handed off, MANAGEMENT_SILENT is left if it holds, and the
response carries the argument bytes; nothing else changes (R26, R28, R37, R139, R145, R164). -/
def Obligations.EchoReturnsItsArguments : Prop :=
  ∀ (tag : Byte) (args : List Byte) (s : State), s.CanTake → args.length ≤ 252 →
    ∃ t, exec (.echo tag args) s = .next t ∧ StepEnds
      { s with
        receiver := { s.receiver with
          state := if s.receiver.state = .hunting then .betweenFrames else s.receiver.state
          silenceTimer :=
            if s.receiver.state = .inFrame then .running s.receiver.silenceTimeout else s.receiver.silenceTimer }
        notify :=
          if s.notify.silent then
            { s.notify with
              silent := false
              sent := s.notify.sent.map fun e => { e with
                retryCount := 0, due := false
                retryTimer := if e.inTransmission then .stopped else .running s.notify.retryInterval } }
          else s.notify
        fault := if s.notify.silent then { s.fault with silent := false } else s.fault
        responses := s.responses ++ [⟨tag, 0x01, ⟨.done, 0, args⟩⟩] } t

/-- READ_ENTRY returns the record of the named entry in every receiver state and role of the bank; a bank or an index out
of range is refused, the bank first. READ_STATUS returns the snapshot of the named section as the part stands at the
taking, of the length Table 1.17 gives; any other section is refused. Neither changes what it reads (R18, R51, R146,
R168). -/
def Obligations.ReadCommandsReturnWhatTheyRead : Prop :=
  (∀ (tag : Byte) (b i : Byte) (s : State), s.CanTake →
    (∀ (hb : b.toNat < 4) (hi : i.toNat < 16), ∃ t, exec (.readEntry tag [b, i]) s = .next t ∧ StepEnds
      (placeResponse ⟨tag, 0x11, ⟨.done, 0, (s.entry ⟨b.toNat, hb⟩ ⟨i.toNat, hi⟩).record⟩⟩ s.taken) t) ∧
    (4 ≤ b.toNat ∨ 16 ≤ i.toNat → ∃ t, exec (.readEntry tag [b, i]) s = .next t ∧ StepEnds
      (placeResponse ⟨tag, 0x11, ⟨.badArgument, if 4 ≤ b.toNat then 1 else 2, []⟩⟩ s.taken) t)) ∧
  ∀ (tag : Byte) (s : State), s.CanTake →
    (∀ (code : Byte) (data : List Byte),
      (code, data) ∈ ([(0x00, ingressSnapshot s.taken), (0x01, tableSnapshot s.taken), (0x02, slotsSnapshot s.taken),
        (0x03, linesSnapshot s.taken), (0x04, notifySnapshot s.notify.silent s.taken), (0x10, portSnapshot 0 s.taken),
        (0x11, portSnapshot 1 s.taken), (0x12, portSnapshot 2 s.taken), (0x13, portSnapshot 3 s.taken)] :
        List (Byte × List Byte)) →
      (∃ t, exec (.readStatus tag [code]) s = .next t ∧ StepEnds (placeResponse ⟨tag, 0x70, ⟨.done, 0, data⟩⟩ s.taken) t) ∧
      (code, data.length) ∈ ([(0x00, 16), (0x01, 2), (0x02, 144), (0x03, 25), (0x04, 29), (0x10, 18), (0x11, 18),
        (0x12, 18), (0x13, 18)] : List (Byte × Nat))) ∧
    ∀ code : Byte, code ∉ ([0x00, 0x01, 0x02, 0x03, 0x04, 0x10, 0x11, 0x12, 0x13] : List Byte) →
      ∃ t, exec (.readStatus tag [code]) s = .next t ∧ StepEnds
        (placeResponse ⟨tag, 0x70, ⟨.badArgument, 1, []⟩⟩ s.taken) t

/-- SET_INGRESS stores a timeout of 1 to 255 and restarts a running frame silence timer with it; 0 is refused. SET_EVENT
stores enable and priority of a class, and a pending entry of the class takes the priority at once; RESTARTED is not
disabled; fields out of range are refused in order. SET_NOTIFY stores the retry interval and limit (R39, R155, R165). -/
def Obligations.SetIngressSetEventAndSetNotifyStoreTheirSettings : Prop :=
  (∀ (tag n : Byte) (s : State), s.CanTake →
    (n ≠ 0 → ∃ t, exec (.setIngress tag [n]) s = .next t ∧ StepEnds
      (placeResponse ⟨tag, 0x50, ⟨.done, 0, []⟩⟩
        { s.taken with receiver := { s.taken.receiver with
          silenceTimeout := n.toNat
          silenceTimer := if s.taken.receiver.silenceTimer.isRunning then .running n.toNat else .stopped } }) t) ∧
    (n = 0 → ∃ t, exec (.setIngress tag [n]) s = .next t ∧ StepEnds
      (placeResponse ⟨tag, 0x50, ⟨.badArgument, 1, []⟩⟩ s.taken) t)) ∧
  (∀ (tag : Byte) (cls : EventClass) (enable : Bool) (p : Priority) (s : State), s.CanTake →
    (cls ≠ .restarted ∨ enable = true →
      ∃ t, exec (.setEvent tag [cls.code, boolCode enable, p.code]) s = .next t ∧ StepEnds
        (placeResponse ⟨tag, 0x60, ⟨.done, 0, []⟩⟩
          { s.taken with notify := { s.taken.notify with
            settings := s.notify.settings.set cls.index.val ⟨enable, p⟩
            pending := s.notify.pending.map fun e => if e.cls = cls then { e with priority := p } else e } }) t) ∧
    (cls = .restarted → enable = false →
      ∃ t, exec (.setEvent tag [cls.code, boolCode enable, p.code]) s = .next t ∧ StepEnds
        (placeResponse ⟨tag, 0x60, ⟨.badArgument, 2, []⟩⟩ s.taken) t)) ∧
  (∀ (tag c e p : Byte) (s : State), s.CanTake → c.toNat = 0 ∨ 11 < c.toNat ∨ 1 < e.toNat ∨ 1 < p.toNat →
    ∃ t, exec (.setEvent tag [c, e, p]) s = .next t ∧ StepEnds
      (placeResponse ⟨tag, 0x60, ⟨.badArgument,
        if c.toNat = 0 ∨ 11 < c.toNat then 1 else if 1 < e.toNat then 2 else 3, []⟩⟩ s.taken) t) ∧
  (∀ (tag i l : Byte) (s : State), s.CanTake →
    (i ≠ 0 → 1 ≤ l.toNat → l.toNat ≤ 15 → ∃ t, exec (.setNotify tag [i, l]) s = .next t ∧ StepEnds
      (placeResponse ⟨tag, 0x61, ⟨.done, 0, []⟩⟩
        { s.taken with notify := { s.taken.notify with retryInterval := i.toNat, retryLimit := l.toNat } }) t) ∧
    (i = 0 ∨ l = 0 ∨ 15 < l.toNat → ∃ t, exec (.setNotify tag [i, l]) s = .next t ∧ StepEnds
      (placeResponse ⟨tag, 0x61, ⟨.badArgument, if i = 0 then 1 else 2, []⟩⟩ s.taken) t))

/-- ACK removes the unacknowledged entry with the sequence number and every older one; a number that no unacknowledged
entry holds receives UNKNOWN_SEQUENCE and changes no entry (R166, R172). -/
def Obligations.AckRemovesTheEntryAndEveryOlderOne : Prop :=
  ∀ (tag seq : Byte) (s : State), s.CanTake →
    (∀ (older newer : List SentEntry) (e : SentEntry), s.taken.notify.sent = older ++ e :: newer → e.sequence = seq →
      (∀ x ∈ older, x.sequence ≠ seq) →
      ∃ t, exec (.ack tag [seq]) s = .next t ∧ StepEnds
        (placeResponse ⟨tag, 0x62, ⟨.done, 0, []⟩⟩ { s.taken with notify := { s.taken.notify with sent := newer } }) t) ∧
    ((∀ x ∈ s.notify.sent, x.sequence ≠ seq) →
      ∃ t, exec (.ack tag [seq]) s = .next t ∧ StepEnds
        (placeResponse ⟨tag, 0x62, ⟨.unknownSequence, 0, []⟩⟩ s.taken) t)

/-- CLEAR_COUNTERS sets the 44 counters and the lost count to 0 and changes nothing else (R148). -/
def Obligations.ClearCountersClearsEveryCounter : Prop :=
  ∀ (tag : Byte) (s : State), s.CanTake → ∃ u t, exec (.clearCounters tag []) s = .next t ∧
    StepEnds (placeResponse ⟨tag, 0x71, ⟨.done, 0, []⟩⟩ u) t ∧
    u.receiver = { s.taken.receiver with framesTaken := 0, framesAborted := 0, lineFaults := 0, strayLines := 0 } ∧
    (∀ i : Fin 16, u.slot i = { s.slot i with opened := 0, skipped := 0 }) ∧
    (∀ p : Fin 4, u.port p = { s.port p with recordsSent := 0, rowsDropped := 0 }) ∧
    u.notify = { s.taken.notify with lostCount := 0 } ∧
    u = { s.taken with receiver := u.receiver, slots := u.slots, ports := u.ports, notify := u.notify }

/-- WRITE_ENTRY with a record in range, by the role of the bank: stored in a standby bank; refused in the pending bank
and, inside a frame, in the active bank; between frames the active bank is checked as it would stand, and the record
stored and the slot reset, or refused. Fields out of range are refused first (R49, R50, R66). -/
def Obligations.WriteEntryActsByTheRoleOfTheBank : Prop :=
  (∀ (tag b i : Byte) (record : List Byte) (raw : RawRecord) (e : Entry) (s : State) (hb : b.toNat < 4)
    (hi : i.toNat < 16), s.CanTake → rawRecord record = some raw → entryOfRecord raw = .ok e →
    let bank : Fin 4 := ⟨b.toNat, hb⟩
    let index : Fin 16 := ⟨i.toNat, hi⟩
    let answered := fun (r : Reply) (u : State) =>
      ∃ t, exec (.writeEntry tag (b :: i :: record)) s = .next t ∧ StepEnds (placeResponse ⟨tag, 0x10, r⟩ u) t
    let written : Vector Entry 16 := s.banks[bank].set index.val e
    (bank ≠ s.activeBank → s.pendingBank ≠ some bank → answered ⟨.done, 0, []⟩ (s.taken.setEntry bank index e)) ∧
    (bank ≠ s.activeBank → s.pendingBank = some bank → answered ⟨.bankPending, 0, []⟩ s.taken) ∧
    (bank = s.activeBank → s.receiver.state = .inFrame → answered ⟨.bankLive, 0, []⟩ s.taken) ∧
    (bank = s.activeBank → s.receiver.state ≠ .inFrame →
      (∀ (j : Fin 16) (cause : Byte), bankFault written (fun p => (s.port p).enable) = some (j, cause) →
        answered ⟨.invalidTable, BitVec.ofNat 8 j.val, [cause]⟩ s.taken) ∧
      (bankFault written (fun p => (s.port p).enable) = none →
        answered ⟨.done, 0, []⟩
          ((s.taken.setEntry bank index e).setSlot index
            { s.slot index with
              armCount := 0, holdOff := 0, frameNumber := 0, state := settledState e 0 })))) ∧
  ∀ (tag b i : Byte) (record : List Byte) (raw : RawRecord) (s : State), s.CanTake → rawRecord record = some raw →
    let refused := fun (field : Byte) => ∃ t, exec (.writeEntry tag (b :: i :: record)) s = .next t ∧
      StepEnds (placeResponse ⟨tag, 0x10, ⟨.badArgument, field, []⟩⟩ s.taken) t
    (4 ≤ b.toNat → refused 1) ∧ (b.toNat < 4 → 16 ≤ i.toNat → refused 2) ∧
    ∀ field : Byte, b.toNat < 4 → i.toNat < 16 → entryOfRecord raw = .error field → refused field

/-- SELECT_BANK is decided by the first row of Table 3.4 that fits (R52). -/
def Obligations.SelectBankFollowsItsTable : Prop :=
  ∀ (tag b : Byte) (s : State), s.CanTake →
    let answered := fun (r : Reply) (u : State) =>
      ∃ t, exec (.selectBank tag [b]) s = .next t ∧ StepEnds (placeResponse ⟨tag, 0x12, r⟩ u) t
    (4 ≤ b.toNat → answered ⟨.badArgument, 1, []⟩ s.taken) ∧
    ∀ hb : b.toNat < 4,
      let bank : Fin 4 := ⟨b.toNat, hb⟩
      (bank = s.activeBank → s.pendingBank = none → answered ⟨.noChange, 0, []⟩ s.taken) ∧
      (bank = s.activeBank → s.pendingBank ≠ none →
        answered ⟨.cancelled, 0, []⟩ { s.taken with pendingBank := none }) ∧
      (bank ≠ s.activeBank → s.pendingBank ≠ none → answered ⟨.busy, 0, []⟩ s.taken) ∧
      (bank ≠ s.activeBank → s.pendingBank = none →
        (bankFault s.banks[bank] (fun p => (s.port p).enable) = none →
          answered ⟨.done, 0, []⟩ { s.taken with pendingBank := some bank }) ∧
        ∀ (j : Fin 16) (cause : Byte), bankFault s.banks[bank] (fun p => (s.port p).enable) = some (j, cause) →
          answered ⟨.invalidTable, BitVec.ofNat 8 j.val, [cause]⟩ s.taken)

/-- ARM adds its count, up to 15, to every masked slot whose entry is enabled and ARMED, a slot that is not ACTIVE taking
its settled state; its data names the masked slots left unchanged; it is refused for a count out of range and while a
switch is pending (R81). -/
def Obligations.ArmAddsToEachMaskedArmedSlot : Prop :=
  ∀ (tag hi lo n : Byte) (s : State), s.CanTake →
    let mask : Half := hi ++ lo
    let arms := fun i : Fin 16 => mask.getLsbD i.val = true ∧ (s.governing i).enable = true ∧ (s.governing i).mode = .armed
    (1 ≤ n.toNat → n.toNat ≤ 15 → s.pendingBank = none →
      ∃ (data : Half) (u t : State), exec (.arm tag [hi, lo, n]) s = .next t ∧
        StepEnds (placeResponse ⟨tag, 0x20, ⟨.done, 0, halfBytes data⟩⟩ u) t ∧
        (∀ i : Fin 16, (data.getLsbD i.val = true ↔ mask.getLsbD i.val = true ∧ ¬arms i)) ∧
        (∀ i : Fin 16, arms i → u.slot i = { s.slot i with
          armCount := min ((s.slot i).armCount + n.toNat) 15
          state := if (s.slot i).state.isActive then (s.slot i).state
            else settledState (s.governing i) (min ((s.slot i).armCount + n.toNat) 15) }) ∧
        (∀ i : Fin 16, ¬arms i → u.slot i = s.slot i) ∧
        u = { s.taken with slots := u.slots }) ∧
    (1 ≤ n.toNat → n.toNat ≤ 15 → s.pendingBank ≠ none → ∃ t, exec (.arm tag [hi, lo, n]) s = .next t ∧
      StepEnds (placeResponse ⟨tag, 0x20, ⟨.bankPending, 0, []⟩⟩ s.taken) t) ∧
    (n = 0 ∨ 15 < n.toNat → ∃ t, exec (.arm tag [hi, lo, n]) s = .next t ∧
      StepEnds (placeResponse ⟨tag, 0x20, ⟨.badArgument, 2, []⟩⟩ s.taken) t)

/-- DISARM sets the arm count of every masked slot whose entry is enabled and ARMED to 0; with cut set the window frames
of those slots end CUT, and without it they go on; slots that are not ACTIVE settle (R77, R82). -/
def Obligations.DisarmClearsCountsAndCuts : Prop :=
  ∀ (tag hi lo cut : Byte) (s : State), s.CanTake →
    let mask : Half := hi ++ lo
    let disarms := fun i : Fin 16 =>
      mask.getLsbD i.val && (s.governing i).enable && decide ((s.governing i).mode = .armed)
    (cut.toNat ≤ 1 → ∃ m u t : State, exec (.disarm tag [hi, lo, cut]) s = .next t ∧
      StepEnds (placeResponse ⟨tag, 0x21, ⟨.done, 0, []⟩⟩ u) t ∧
      (∀ i : Fin 16, m.slot i =
        if disarms i then
          { s.slot i with
            armCount := 0
            state := if (s.slot i).state.isActive then (s.slot i).state else settledState (s.governing i) 0 }
        else s.slot i) ∧
      m = { s.taken with slots := m.slots } ∧
      WindowsEnd .cut (m.inProgress fun i => disarms i && cut == 1) m u) ∧
    (1 < cut.toNat → ∃ t, exec (.disarm tag [hi, lo, cut]) s = .next t ∧
      StepEnds (placeResponse ⟨tag, 0x21, ⟨.badArgument, 2, []⟩⟩ s.taken) t)

/-- SET_PORT: fields out of range are refused in order, then the disable of the management port, then the disable of a
port in use; an accepted one stores the three settings, with the port's new state and its running timer restarted (R119,
R120). -/
def Obligations.SetPortStoresOrRefuses : Prop :=
  ∀ (tag p e c1 c0 h1 h0 : Byte) (s : State), s.CanTake →
    let ceiling : Half := c1 ++ c0
    let timeout : Half := h1 ++ h0
    let answered := fun (r : Reply) (u : State) =>
      ∃ t, exec (.setPort tag [p, e, c1, c0, h1, h0]) s = .next t ∧ StepEnds (placeResponse ⟨tag, 0x30, r⟩ u) t
    (4 ≤ p.toNat ∨ 1 < e.toNat ∨ 1024 < ceiling.toNat ∨ 1000 < timeout.toNat →
      answered ⟨.badArgument,
        if 4 ≤ p.toNat then 1 else if 1 < e.toNat then 2 else if 1024 < ceiling.toNat then 3 else 4, []⟩ s.taken) ∧
    ∀ hp : p.toNat < 4, e.toNat ≤ 1 → ceiling.toNat ≤ 1024 → timeout.toNat ≤ 1000 →
      let n : Fin 4 := ⟨p.toNat, hp⟩
      let q := s.port n
      let inUse :=
        (∃ i : Fin 16, (s.entry s.activeBank i).enable = true ∧ (s.entry s.activeBank i).port = n) ∨
        (∃ (b : Fin 4) (i : Fin 16), s.pendingBank = some b ∧ (s.entry b i).enable = true ∧ (s.entry b i).port = n) ∨
        0 < q.queued ∨ 0 < q.reservations ∨ q.openSet ≠ 0 ∨ q.transmission ≠ none
      (e = 0 → n = s.mgmt → answered ⟨.mgmtPort, 0, []⟩ s.taken) ∧
      (e = 0 → n ≠ s.mgmt → q.enable = true → inUse → answered ⟨.portInUse, 0, []⟩ s.taken) ∧
      (e = 1 ∨ (n ≠ s.mgmt ∧ ¬(q.enable = true ∧ inUse)) →
        answered ⟨.done, 0, []⟩
          (s.taken.setPort n { q with
            enable := decide (e = 1)
            ceiling := ceiling.toNat
            holdTimeout := timeout.toNat
            holdTimer := if q.holdTimer.isRunning ∧ 0 < timeout.toNat then .running timeout.toNat else .stopped
            state := if e = 0 then .disabled
              else if q.state ≠ .disabled then q.state
              else if q.ready then .idle else .held
            stallOutstanding := decide (e = 1) && q.stallOutstanding }))

/-- SET_LINE: the first field out of range is refused; otherwise the five settings are stored, with the effects of the
change of mode or of the filter time on the filtered level and the filter interval. That the change taken at filter 0 goes by
the settings now stored is log entry 10 (DEDUCED), and that the level read at the return to INPUT is the one kept from outside
is the model's choice (log entry 9) (R131, R132). -/
def Obligations.SetLineStoresWithTheEffectsOfItsMode : Prop :=
  (∀ (tag : Byte) (a : LineSettings) (s : State), s.CanTake →
    let l := s.line a.line
    let stored : TriggerLine :=
      { l with mode := a.mode, edge := a.edge, filter := a.filter, latch := a.latch, boundSlot := a.boundSlot }
    let gone := fun u : TriggerLine => ∃ t,
      exec (.setLine tag [BitVec.ofNat 8 a.line.val, a.mode.code, a.edge.code, a.filter.code, boolCode a.latch,
        BitVec.ofNat 8 a.boundSlot.val]) s = .next t ∧
      StepEnds (placeResponse ⟨tag, 0x40, ⟨.done, 0, []⟩⟩ (s.taken.setLine a.line u)) t
    (l.mode ≠ .input → a.mode = .input → gone { stored with filteredLevel := l.pin, filterInterval := .stopped }) ∧
    (l.mode = .input → a.mode ≠ .input → gone { stored with filterInterval := .stopped }) ∧
    (l.mode ≠ .input → a.mode ≠ .input → gone stored) ∧
    (l.mode = .input → a.mode = .input → a.filter = l.filter ∨ l.filterInterval.isRunning = false → gone stored) ∧
    (l.mode = .input → a.mode = .input → a.filter ≠ l.filter → l.filterInterval.isRunning = true → a.filter ≠ .us0 →
      gone { stored with filterInterval := .running a.filter.micros }) ∧
    (l.mode = .input → a.mode = .input → a.filter ≠ l.filter → l.filterInterval.isRunning = true → a.filter = .us0 →
      gone { stored with
        filteredLevel := l.pin
        filterInterval := .stopped
        edges := if (a.edge = .both ∨ (a.edge = .rising ∧ l.pin = true) ∨ (a.edge = .falling ∧ l.pin = false)) ∧
            l.edges.length < 2 then l.edges ++ [if l.pin then .rising else .falling] else l.edges })) ∧
  ∀ (tag l m e f la b : Byte) (s : State), s.CanTake →
    3 < l.toNat ∨ 2 < m.toNat ∨ 2 < e.toNat ∨ 3 < f.toNat ∨ 1 < la.toNat ∨ 15 < b.toNat →
    ∃ t, exec (.setLine tag [l, m, e, f, la, b]) s = .next t ∧ StepEnds
      (placeResponse ⟨tag, 0x40, ⟨.badArgument,
        if 3 < l.toNat then 1 else if 2 < m.toNat then 2 else if 2 < e.toNat then 3 else if 3 < f.toNat then 4
        else if 1 < la.toNat then 5 else 6, []⟩⟩ s.taken) t

/-- RESTART: the frame in progress is aborted silently and the receiver hunts; a pending switch is cancelled; every slot
is disarmed, ended without a CLOSE and settled; every port is flushed and takes RECOVERING or its resting state; the
notification queue holds RESTARTED, then the recovered stalls in an order the manual leaves open (log entry 3); the
response queue holds the RESTART response alone; every setting is kept, and every
counter but for the abort that frames aborted counts (R42, R59, R88, R102, R125, R135,
R150, R169). -/
def Obligations.RestartBringsEveryBlockBack : Prop :=
  ∀ (tag : Byte) (s : State), s.CanTake → ∃ (u t : State) (order : List (Fin 4)),
    exec (.restart tag []) s = .next t ∧ StepEnds u t ∧
    let next := fun p : Fin 4 =>
      let q := s.port p
      if q.state = .disabled then PortState.disabled
      else if q.openSet ≠ 0 ∨ q.transmission ≠ none then .recovering
      else if q.ready then .idle else .held
    let leaves := fun p : Fin 4 => (s.port p).state = .stalled ∧ next p ≠ .recovering
    u.receiver = { s.receiver with
      state := .hunting
      silenceTimer := .stopped
      framesAborted :=
        if s.receiver.state = .inFrame then satInc s.receiver.framesAborted else s.receiver.framesAborted } ∧
    u.pendingBank = none ∧
    (∀ i : Fin 16, u.slot i =
      { s.slot i with armCount := 0, holdOff := 0, state := settledState (s.governing i) 0 }) ∧
    (∀ p : Fin 4, u.port p = { s.port p with
      queue := []
      holding := (s.port p).holding - ((s.port p).queue.flatMap (·.blocks)).length
      reservations := (s.port p).reservations - s.activeOn p
      holdTimer := .stopped
      controlCount := 0
      state := next p
      stallOutstanding := if leaves p then false else (s.port p).stallOutstanding }) ∧
    u.freeList.Perm (s.freeList ++
      (List.finRange 4).flatMap fun p => (s.port p).queue.flatMap fun r => r.blocks.map (·.id)) ∧
    order.Perm ((List.finRange 4).filter fun p => decide (leaves p) && (s.port p).stallOutstanding) ∧
    u.notify = { s.notify with
        sent := []
        pending := [{ s.eventOf .restarted .none 1 (if s.pendingBank = none then 0 else 1) with repeatCount := 1 }]
        nextSequence := 0
        lostCount := 0
        silent := false }.takeAll (order.map fun p => s.eventOf .portState (.port p) 2 0) ∧
    u.fault = ⟨false, if leaves s.mgmt then false else s.fault.portTrouble⟩ ∧
    u.responses = [⟨tag, 0x7f, ⟨.done, 0, []⟩⟩] ∧
    u = { s with
      receiver := u.receiver, pendingBank := none, slots := u.slots, ports := u.ports, freeList := u.freeList
      notify := u.notify, fault := u.fault, responses := u.responses, choices := u.choices }

/-- A command taken whose code is not in the summary receives UNKNOWN_COMMAND whatever its arguments; one whose code is
in the summary but whose arguments have another length than the code requires receives BAD_LENGTH. Neither changes more
than the taking itself does (R15, R139). -/
def Obligations.UnknownCodesAndBadLengthsAreAnswered : Prop :=
  (∀ (tag code : Byte) (args : List Byte) (s : State), s.CanTake →
    ∃ t, exec (.unknownCommand tag code args) s = .next t ∧ StepEnds
      (placeResponse ⟨tag, code, ⟨.unknownCommand, 0, []⟩⟩ s.taken) t) ∧
  ∀ (tag code : Byte) (args : List Byte) (s : State), s.CanTake →
    (code = 0x01 ∧ 252 < args.length) ∨
      (∃ n : Nat, (code, n) ∈ ([(0x10, 14), (0x11, 2), (0x12, 1), (0x20, 3), (0x21, 3), (0x30, 6), (0x40, 6), (0x50, 1),
        (0x60, 3), (0x61, 2), (0x62, 1), (0x70, 1), (0x71, 0), (0x7f, 0)] : List (Byte × Nat)) ∧ args.length ≠ n) →
    ∃ t, exec (commandOf tag code args) s = .next t ∧ StepEnds
      (placeResponse ⟨tag, code, ⟨.badLength, 0, []⟩⟩ s.taken) t

/-- A command handed on while all sixteen response places are occupied is lost with COMMAND_LOST cause 2 and its tag; a
line too short for a code is lost with cause 3 whether or not a place is free. Neither has any other effect than its
hand-off (R137, R138, R152). -/
def Obligations.LostCommandsAreReportedOnly : Prop :=
  (∀ (tag code : Byte) (args : List Byte) (s : State), s.receiver.state ≠ .noSignal → 16 ≤ s.outstanding.length →
    ∃ t, exec (commandOf tag code args) s = .next t ∧ StepEnds
      { handOff s with notify := s.notify.takeAll [s.eventOf .commandLost .none 2 tag] } t) ∧
  ∀ (payload : List Byte) (s : State), s.receiver.state ≠ .noSignal →
    ∃ t, exec (.shortCommandLine payload) s = .next t ∧ StepEnds
      { handOff s with notify := s.notify.takeAll [s.eventOf .commandLost .none 3 0] } t

/-! ### The ingress receiver -/

/-- Lock gained in NO_SIGNAL: to HUNTING, SIGNAL_CHANGE with detail 1, and the silence timer as it was, so that the first
line delivered after it is taken in HUNTING (R21). -/
def Obligations.LockGainedPassesToHunting : Prop :=
  ∀ s : State, s.receiver.state = .noSignal → ∃ t, exec .lockGained s = .next t ∧
    StepEnds { s with
      laneLocked := true
      receiver := { s.receiver with state := .hunting }
      notify := s.notify.takeAll [s.eventOf .signalChange .none 1 0] } t ∧
    t.receiver.state = .hunting ∧ t.receiver.silenceTimer = s.receiver.silenceTimer

/-- Lock lost, a header fault and the expiry of the silence timer: inside a frame each first aborts it, with its own cause
and every window frame ended ABORTED, and outside a frame none does; then the receiver's new state, its events and its
counter, in their order; within the abort that order is log entry 12 (R22, R23, R38, R40, R79). -/
def Obligations.LockLostHeaderFaultAndSilenceAbortTheFrame : Prop :=
  (∀ s : State, s.receiver.state = .inFrame → ∃ a t, FrameAborts 2 s a ∧ exec .lockLost s = .next t ∧
    StepEnds { a with
      laneLocked := false
      receiver := { a.receiver with state := .noSignal }
      notify := a.notify.takeAll [s.eventOf .signalChange .none 0 0] } t) ∧
  (∀ s : State, s.receiver.state = .hunting ∨ s.receiver.state = .betweenFrames → ∃ t, exec .lockLost s = .next t ∧
    StepEnds { s with
      laneLocked := false
      receiver := { s.receiver with state := .noSignal }
      notify := s.notify.takeAll [s.eventOf .signalChange .none 0 0] } t) ∧
  (∀ s : State, s.receiver.state = .inFrame → ∃ a t, FrameAborts 1 s a ∧ exec .headerFault s = .next t ∧
    StepEnds { a with
      receiver := { a.receiver with state := .hunting, lineFaults := satInc s.receiver.lineFaults }
      notify := a.notify.takeAll [s.eventOf .lineFault .none 1 0xff] } t) ∧
  (∀ s : State, s.receiver.state = .betweenFrames → ∃ t, exec .headerFault s = .next t ∧
    StepEnds { s with
      receiver := { s.receiver with state := .hunting, lineFaults := satInc s.receiver.lineFaults }
      notify := s.notify.takeAll [s.eventOf .lineFault .none 1 0xff] } t) ∧
  (∀ s : State, s.receiver.state = .hunting → ∃ t, exec .headerFault s = .next t ∧ StepEnds s t) ∧
  ∀ s : State, s.receiver.state = .inFrame → s.receiver.silenceTimer.isRunning = true →
    ∃ a t, FrameAborts 3 s a ∧ exec .frameSilenceExpiry s = .next t ∧
      StepEnds { a with receiver := { a.receiver with state := .betweenFrames } } t

/-- A PIXEL, INFO or CLOSE line outside a frame, and a CONTROL line on a channel other than 0 anywhere, is stray: counted,
and reported with its kind outside HUNTING; nothing else changes, the silence timer included. That the events which come with
a stray PIXEL or INFO line are not read is the model's reading (log entry 21, DEDUCED) (R26, R27, R29). -/
def Obligations.StrayLinesAreCountedAndReported : Prop :=
  ∀ s : State,
    let stray := fun (c : Instr) (kind : Byte) => ∃ t, exec c s = .next t ∧ StepEnds
      { s with
        receiver := { s.receiver with strayLines := satInc s.receiver.strayLines }
        notify :=
          if s.receiver.state = .hunting then s.notify
          else s.notify.takeAll [s.eventOf .lineFault .none 3 kind] } t
    (s.receiver.state = .hunting ∨ s.receiver.state = .betweenFrames →
      (∀ (depth : BitVec 2) (row : BitVec 12) (samples : List Half) (during : List (Fin 16 × RowEvent)),
        stray (.ingressPixel depth row ⟨samples, during⟩) 1) ∧
      (∀ (payload : List Byte) (during : List (Fin 16 × RowEvent)), stray (.ingressInfo ⟨payload, during⟩) 2) ∧
      ∀ payload : List Byte, stray (.ingressClose payload) 3) ∧
    (s.receiver.state ≠ .noSignal →
      ∀ (channel : BitVec 4) (payload : List Byte), stray (.strayControlLine channel payload) 4)

/-- A trailer failure is reported and counted; a failed command line is also reported as COMMAND_LOST; a failed PIXEL line
inside a frame, at or above the expected row, announces the rows up to its own as missed. That LINE_FAULT comes before the
WINDOW_DONE of window frames which the missed rows end is the model's choice (log entry 20) (R24, R25). -/
def Obligations.TrailerFailureIsReportedAndItsRowsMissed : Prop :=
  ∀ (h : LineHeader) (s : State), s.receiver.state ≠ .noSignal →
    let fault := s.eventOf .lineFault .none 2 ((kindCode h.kind).setWidth 8)
    let b : State := { s with
      receiver := { s.receiver with lineFaults := satInc s.receiver.lineFaults }
      notify := s.notify.takeAll [fault] }
    let e := s.receiver.expectedRow
    let r := h.row.toNat
    let ends := fun u : State => ∃ t, exec (.trailerFailure h) s = .next t ∧ StepEnds u t
    (h.kind = .controlKind → h.stream = 0 →
      ends { b with notify := s.notify.takeAll [fault, s.eventOf .commandLost .none 1 0] }) ∧
    (h.kind = .pixelKind → s.receiver.state = .inFrame → e ≤ r →
      ends { missRows e (r + 1 - e) b with receiver := { b.receiver with expectedRow := r + 1 } }) ∧
    (¬(h.kind = .controlKind ∧ h.stream = 0) → ¬(h.kind = .pixelKind ∧ s.receiver.state = .inFrame ∧ e ≤ r) → ends b)

/-- A sound OPEN: inside a frame that frame is first aborted with NEW_OPEN (its reports in the order of log entry 12); then
the new frame starts, a pending bank is switched to with every slot reset, the hold-off counters fall, and the slots ask for
openings in ascending index. That no completion or stall falls between two openings of one frame start is the model's reading
(log entry 21, DEDUCED) (R30, R31, R55 to R57, R69, R70). -/
def Obligations.OpenStartsAFrame : Prop :=
  ∀ (depth : BitVec 2) (payload : List Byte) (s : State),
    (s.receiver.state = .hunting ∨ s.receiver.state = .betweenFrames →
      ∃ w t, FrameStarts depth payload s w ∧ exec (.ingressOpen depth payload) s = .next t ∧
        StepEnds ((List.finRange 16).foldl (fun v i => askOpening i v) w) t) ∧
    (s.receiver.state = .inFrame →
      ∃ a w t, FrameAborts 4 s a ∧ FrameStarts depth payload a w ∧ exec (.ingressOpen depth payload) s = .next t ∧
        StepEnds ((List.finRange 16).foldl (fun v i => askOpening i v) w) t)

/-- A sound PIXEL line inside a frame, at or above the expected row: the rows skipped are missed, the row itself is taken
at the frame's depth and missed at another, the expected row becomes the next, and the silence timer restarts. The
events inside a row taken come with its line; a row not taken has none (log entry 21) (R32, R34). -/
def Obligations.PixelLineAdvancesTheFrame : Prop :=
  ∀ (depth : BitVec 2) (row : BitVec 12) (samples : List Half) (during : List (Fin 16 × RowEvent)) (s : State),
    s.receiver.state = .inFrame → s.receiver.expectedRow ≤ row.toNat →
    let e := s.receiver.expectedRow
    let r := row.toNat
    let after : Receiver :=
      { s.receiver with expectedRow := r + 1, silenceTimer := .running s.receiver.silenceTimeout }
    (depth = s.receiver.depth → ∃ t, exec (.ingressPixel depth row ⟨samples, during⟩) s = .next t ∧
      StepEnds (takeRow depth r (samples.map (sampleValue depth)) during
        (missRows e (r - e) { s with receiver := after })) t) ∧
    (depth ≠ s.receiver.depth → ∃ t, exec (.ingressPixel depth row ⟨samples, during⟩) s = .next t ∧
      StepEnds (missRows e (r + 1 - e) { s with receiver := after }) t)

/-- A sound PIXEL line below the expected row is discarded, whatever its depth: LINE_FAULT row order and the line-fault
counter, nothing else; and once row 4095 has been taken or missed this holds of every PIXEL line. That the events which come
with such a line are not read is the model's reading (log entry 21, DEDUCED) (R33). -/
def Obligations.PixelLineBelowTheExpectedRowIsDiscarded : Prop :=
  ∀ (depth : BitVec 2) (row : BitVec 12) (samples : List Half) (during : List (Fin 16 × RowEvent)) (s : State),
    s.receiver.state = .inFrame → row.toNat < s.receiver.expectedRow ∨ s.receiver.expectedRow = 4096 →
    ∃ t, exec (.ingressPixel depth row ⟨samples, during⟩) s = .next t ∧
      StepEnds { s with
        receiver := { s.receiver with lineFaults := satInc s.receiver.lineFaults }
        notify := s.notify.takeAll [s.eventOf .lineFault .none 5 1] } t

/-- A sound INFO line inside a frame, of at most 256 bytes and among the first four, is copied in ascending slot index to
every ACTIVE slot that carries info, or reported as dropped for it; beyond either limit it is discarded and reported.
Events between the slots' turns come with the line, as for a PIXEL line (log entry 21) (R35, R97, R98). -/
def Obligations.InfoLineIsCopiedWithinItsLimits : Prop :=
  (∀ (payload : List Byte) (during : List (Fin 16 × RowEvent)) (s : State), s.receiver.state = .inFrame →
    (payload.length ≤ 256 → s.receiver.infoCount < 4 → ∃ t, exec (.ingressInfo ⟨payload, during⟩) s = .next t ∧
      StepEnds ((List.finRange 16).foldl (fun v i => copyInfo payload i (beforeTurn during i v))
        { s with receiver := { s.receiver with
          infoCount := s.receiver.infoCount + 1, silenceTimer := .running s.receiver.silenceTimeout } }) t) ∧
    (256 < payload.length ∨ 4 ≤ s.receiver.infoCount → ∃ t, exec (.ingressInfo ⟨payload, during⟩) s = .next t ∧
      StepEnds { s with
        receiver := { s.receiver with lineFaults := satInc s.receiver.lineFaults }
        notify := s.notify.takeAll [s.eventOf .lineFault .none 4 2] } t)) ∧
  ∀ (payload : List Byte) (i : Fin 16) (s : State),
    ((∀ c, (s.slot i).state = .active c → c.carryInfo = false) → copyInfo payload i s = s) ∧
    ∀ c, (s.slot i).state = .active c → c.carryInfo = true →
      let q := s.port c.port
      let k := ceilDiv payload.length 128
      let placeFree := q.queued + q.reservations < 128
      let granted := k = 0 ∨ (k ≤ s.freeList.length ∧ q.holding + k ≤ q.ceiling)
      (placeFree → granted → ∃ blocks : List Block, blocks.map (·.id) = s.freeList.take k ∧
        blocks.flatMap (·.bytes) = payload ∧
        copyInfo payload i s =
          { s.setPort c.port { q with
              queue := q.queue ++ [⟨c.stream, .infoRecord payload.length blocks⟩], holding := q.holding + k } with
            freeList := s.freeList.drop k }) ∧
      (¬(placeFree ∧ granted) →
        copyInfo payload i s =
          { s with notify := s.notify.takeAll [s.eventOf .segmentDropped (.port c.port)
            (if q.queued + q.reservations < 128 then 3 else 2) (BitVec.ofNat 8 i.val)] })

/-- A sound CLOSE inside a frame: the silence timer stops, the receiver passes to BETWEEN_FRAMES, and every window frame
still in progress ends COMPLETE and CLIPPED, in ascending slot index. The CLOSE of a window frame, whatever ends it, carries
its stream id, open number, completion code, CLIPPED, DEFICIENT and rows delivered, and the detail of its WINDOW_DONE holds
the code in bits 15 to 13 and the rows delivered below them (R36, R77, R78). -/
def Obligations.CloseEndsTheFrame : Prop :=
  (∀ (payload : List Byte) (s : State), s.receiver.state = .inFrame →
    ∃ u t, exec (.ingressClose payload) s = .next t ∧ StepEnds u t ∧
      WindowsEnd .complete ((s.inProgress fun _ => true).map fun x => (x.1, { x.2 with clipped := true }))
        { s with receiver := { s.receiver with state := .betweenFrames, silenceTimer := .stopped } } u) ∧
  (∀ (c : WindowContext) (code : CompletionCode), c.closeRecord code =
    ⟨c.stream, .closeRecord c.openNumber code c.clipped c.deficient c.rowsDelivered⟩) ∧
  ∀ (code : CompletionCode) (rows : Nat), (windowDoneDetail code rows).toNat =
    8192 * (match code with
      | .complete => 0
      | .cut => 1
      | .aborted => 2
      | .abandoned => 3) + rows % 8192

/-! ### The egress ports -/

/-- The ready input: a rise takes HELD to IDLE and a stalled port with streams open to RECOVERING, and stops the hold
timer; a stalled port with none open has recovered at once, begins a line and then reports (log entry 13); a fall takes IDLE to HELD; in the other states
the level is recorded (R114, R118). -/
def Obligations.ReadyInputMovesThePort : Prop :=
  (∀ (p : Fin 4) (s : State), (s.port p).ready = false →
    let q := s.port p
    let ends := fun u : State => ∃ t, exec (.readyRise p) s = .next t ∧ StepEnds u t
    (q.state = .held → ends (s.setPort p { q with ready := true, state := .idle, holdTimer := .stopped })) ∧
    (q.state = .sending ∨ q.state = .disabled → ends (s.setPort p { q with ready := true })) ∧
    (q.state = .recovering → ends (s.setPort p { q with ready := true, holdTimer := .stopped })) ∧
    (q.state = .stalled → q.openSet ≠ 0 → ends (s.setPort p { q with ready := true, state := .recovering })) ∧
    (q.state = .stalled → q.openSet = 0 → q.transmission = none → q.stallOutstanding = true →
      let v := settlePort p (s.setPort p { q with ready := true, state := .idle })
      ends { v.setPort p { v.port p with stallOutstanding := false } with
        notify := v.notify.takeAll [s.eventOf .portState (.port p) 2 0]
        fault := if p = s.mgmt then { s.fault with portTrouble := false } else s.fault })) ∧
  ∀ (p : Fin 4) (s : State), (s.port p).ready = true →
    ∃ t, exec (.readyFall p) s = .next t ∧ StepEnds
      (s.setPort p { s.port p with
        ready := false, state := if (s.port p).state = .idle then .held else (s.port p).state }) t

/-- The hold timer of a HELD port expires: the port stalls, its queue is flushed and the blocks returned, its window
frames end without a CLOSE, the stall is reported, and on the management port the fault line's condition is set; the
open-stream set stays. The order in which the blocks return, oldest record first, is the model's choice (log entry 5) (R80,
R102, R116). -/
def Obligations.HoldTimerExpiryStallsThePort : Prop :=
  ∀ (p : Fin 4) (s : State), (s.port p).state = .held → (s.port p).holdTimer.isRunning = true →
    let q := s.port p
    ∃ u t, exec (.holdTimerExpiry p) s = .next t ∧ StepEnds u t ∧
      u.port p = { q with
        state := .stalled
        holdTimer := .stopped
        queue := []
        holding := q.holding - (q.queue.flatMap (·.blocks)).length
        reservations := q.reservations - s.activeOn p
        stallOutstanding := true } ∧
      (∀ r, r ≠ p → u.port r = s.port r) ∧
      (∀ i : Fin 16, u.slot i =
        if (s.slot i).routedTo p then
          { s.slot i with state := settledState (s.governing i) (s.slot i).armCount }
        else s.slot i) ∧
      u = { s with
        ports := u.ports
        slots := u.slots
        freeList := s.freeList ++ q.queue.flatMap fun r => r.blocks.map (·.id)
        notify := s.notify.takeAll [s.eventOf .portState (.port p) 1 0]
        fault := if p = s.mgmt then { s.fault with portTrouble := true } else s.fault }

/-- The hold timer of a RECOVERING port expires: back to STALLED with its open-stream set unchanged, nothing flushed and
no slot told, for its queue is empty and it holds no reservation; stall outstanding, PORT_STATE stalled and on the
management port the fault line again; and the next rise begins the recovery afresh with the streams still in the set
(R117). -/
def Obligations.RecoveryHoldExpiryStallsThePortAgain : Prop :=
  ∀ (p : Fin 4) (s : State), s.PortLaw → (s.port p).state = .recovering → (s.port p).holdTimer.isRunning = true →
    let q := s.port p
    q.queue = [] ∧ q.reservations = 0 ∧
    ∃ t, exec (.recoveryHoldExpiry p) s = .next t ∧
      StepEnds { s.setPort p { q with state := .stalled, holdTimer := .stopped, stallOutstanding := true } with
        notify := s.notify.takeAll [s.eventOf .portState (.port p) 1 0]
        fault := if p = s.mgmt then { s.fault with portTrouble := true } else s.fault } t ∧
      ∃ v, exec (.readyRise p) t = .next v ∧ (v.port p).state = .recovering ∧ (v.port p).openSet = q.openSet ∧
        ∃ id, lowestStream q.openSet = some id ∧ (p ≠ s.mgmt → (v.port p).transmission = some ⟨.abandonedClose id, false⟩)

/-- A line completes: its blocks return, its place is freed, the open-stream set gains the stream of an OPEN and loses
that of a CLOSE, records sent counts it, the notification unit is told of a notification; a line begun before a hard
reset does only the first two. A SENDING port then rests by its ready level; a RECOVERING one goes on while streams are
open, and otherwise its recovery ends, its line begun before its report (log entry 13) (R101, R112, R113, R118, R126, R161). -/
def Obligations.CompletionFreesCountsAndGoesOn : Prop :=
  ∀ (p : Fin 4) (x : Transmission) (s : State), (s.port p).transmission = some x →
    let q := s.port p
    let ids := x.line.blockIds
    let opened : BitVec 16 := match x.line with
      | .departure ⟨stream, .openRecord ..⟩ => q.openSet ||| (1#16 <<< stream.toNat)
      | .departure ⟨stream, .closeRecord ..⟩ => q.openSet &&& ~~~(1#16 <<< stream.toNat)
      | .abandonedClose stream => q.openSet &&& ~~~(1#16 <<< stream.toNat)
      | _ => q.openSet
    let told : NotifyUnit := match x.line with
      | .notification _ => { s.notify with sent := s.notify.sent.map fun e =>
          if e.inTransmission then
            { e with
              inTransmission := false
              retryTimer := if s.notify.silent then e.retryTimer else .running s.notify.retryInterval }
          else e }
      | _ => s.notify
    let freed : Port := { q with transmission := none, holding := q.holding - ids.length }
    let after : Port := if x.stale then freed else { freed with openSet := opened, recordsSent := satInc q.recordsSent }
    let b : State :=
      { s.setPort p after with freeList := s.freeList ++ ids, notify := if x.stale then s.notify else told }
    let ends := fun u : State => ∃ t, exec (.transmissionComplete p) s = .next t ∧ StepEnds u t
    (q.state = .sending → ends (b.setPort p { after with state := if q.ready then .idle else .held })) ∧
    (q.state = .recovering → after.openSet ≠ 0 → ends b) ∧
    (q.state = .recovering → after.openSet = 0 →
      let v := settlePort p (b.setPort p { after with state := if q.ready then .idle else .held })
      let reported : State :=
        if q.stallOutstanding then
          { v.setPort p { v.port p with stallOutstanding := false } with
            notify := v.notify.takeAll [s.eventOf .portState (.port p) 2 0] }
        else v
      ends (if p = s.mgmt then { reported with fault := { s.fault with portTrouble := false } } else reported))

/-! ### Notifications, trigger lines, hard reset -/

/-- A retry timer expires: below the limit the entry's retry count rises and it becomes due; at or above it the unit
enters MANAGEMENT_SILENT, every retry timer stopped, every entry kept, and the fault line's condition set (R162,
R163). -/
def Obligations.RetryTimerExpiryResendsOrFallsSilent : Prop :=
  ∀ (older newer : List SentEntry) (e : SentEntry) (s : State), s.notify.sent = older ++ e :: newer →
    e.retryTimer.isRunning = true → (∀ x ∈ older ++ newer, x.sequence ≠ e.sequence) →
    (e.retryCount < s.notify.retryLimit → ∃ t, exec (.retryTimerExpiry e.sequence) s = .next t ∧
      StepEnds { s with notify := { s.notify with
        sent := older ++ { e with retryCount := e.retryCount + 1, due := true, retryTimer := .stopped } :: newer } } t) ∧
    (s.notify.retryLimit ≤ e.retryCount → ∃ t, exec (.retryTimerExpiry e.sequence) s = .next t ∧
      StepEnds { s with
        notify := { s.notify with silent := true, sent := s.notify.sent.map fun x => { x with retryTimer := .stopped } }
        fault := { s.fault with silent := true } } t)

/-- A trigger pin changes: in INPUT mode a departure from the filtered level starts the filter interval, or with filter 0
is accepted at once, and a return ends the interval; the expiry of the interval accepts the change. An accepted change
that the edge select names joins the edges not yet taken, of which a line holds two. That a change in an output mode
moves only the level kept from outside is the model's choice (log entry 9) (R128, R129). -/
def Obligations.PinChangesAreFilteredAndAccepted : Prop :=
  ∀ (n : Fin 4) (s : State),
    let l := s.line n
    let accepted := fun x : TriggerLine =>
      { x with
        filteredLevel := x.pin
        filterInterval := .stopped
        edges := if (x.edge = .both ∨ (x.edge = .rising ∧ x.pin = true) ∨ (x.edge = .falling ∧ x.pin = false)) ∧
            x.edges.length < 2 then x.edges ++ [if x.pin then .rising else .falling] else x.edges }
    let moved : TriggerLine := { l with pin := !l.pin }
    let ends := fun x : TriggerLine => ∃ t, exec (.triggerPinChange n) s = .next t ∧ StepEnds (s.setLine n x) t
    (l.mode ≠ .input → ends moved) ∧
    (l.mode = .input → (!l.pin) = l.filteredLevel → ends { moved with filterInterval := .stopped }) ∧
    (l.mode = .input → (!l.pin) ≠ l.filteredLevel → l.filter = .us0 → ends (accepted moved)) ∧
    (l.mode = .input → (!l.pin) ≠ l.filteredLevel → l.filter ≠ .us0 →
      ends { moved with filterInterval := .running l.filter.micros }) ∧
    (l.mode = .input → l.filterInterval.isRunning = true →
      ∃ t, exec (.filterIntervalExpiry n) s = .next t ∧ StepEnds (s.setLine n (accepted l)) t)

/-- The slot controller takes the oldest edge of a line: every slot whose entry is enabled, ARMED and names the line meets
it in ascending index; it is refused by the hold-off counter, then by a full arm count, and otherwise adds one, cutting
first, under policy RESTART, a window frame in progress; no other slot is touched (R83, R84, R129). -/
def Obligations.TriggerEdgeArmsOrIsRefused : Prop :=
  (∀ (n : Fin 4) (d : ChangeDirection) (rest : List ChangeDirection) (s : State), (s.line n).edges = d :: rest →
    ∃ t, exec (.triggerEdge n) s = .next t ∧
      StepEnds ((List.finRange 16).foldl (fun v i => edgeSlot n i v) (s.setLine n { s.line n with edges := rest })) t) ∧
  ∀ (n : Fin 4) (i : Fin 16) (s : State),
    let e := s.governing i
    let x := s.slot i
    let matched := e.enable = true ∧ e.mode = .armed ∧ e.trigger = some n
    let refused := fun cause : Byte =>
      { s with notify := s.notify.takeAll [s.eventOf .triggerRefused (.slot i) cause (BitVec.ofNat 8 n.val)] }
    (¬matched → edgeSlot n i s = s) ∧
    (matched → 0 < x.holdOff → edgeSlot n i s = refused 1) ∧
    (matched → x.holdOff = 0 → x.armCount = 15 → edgeSlot n i s = refused 2) ∧
    (matched → x.holdOff = 0 → x.armCount ≠ 15 → x.state.isActive = false →
      edgeSlot n i s = s.setSlot i { x with armCount := x.armCount + 1, state := .ready }) ∧
    (matched → x.holdOff = 0 → x.armCount ≠ 15 → x.state.isActive = true → e.policy = .keep →
      edgeSlot n i s = s.setSlot i { x with armCount := x.armCount + 1 }) ∧
    (matched → x.holdOff = 0 → x.armCount ≠ 15 → x.state.isActive = true → e.policy = .restart →
      edgeSlot n i s =
        (endWindow .cut i s).setSlot i { (endWindow .cut i s).slot i with armCount := x.armCount + 1, state := .ready })

/-- Hard reset: every block at its hard-reset values; a port is IDLE or HELD by its ready level, or SENDING while a line
begun before the reset goes on with its blocks; every other block of the line store is free; a line's filtered level is
its pin's; the management port is the one the strap pins name; RESTARTED waits. That
the ready and trigger levels are kept (log entry 16), the mark of a line that goes on (log entry 17), and the queue and the
free choices kept (log entries 11 and 3) are the model's own (R2, R19, R43, R46, R64, R99, R105, R121,
R126, R127, R134, R144, R170). -/
def Obligations.HardResetRestoresEveryBlock : Prop :=
  ∀ (m1 m0 : Bool) (s : State), ∃ u t, exec (.hardReset m1 m0) s = .next t ∧ StepEnds u t ∧
    u.laneLocked = false ∧
    u.receiver = ⟨.noSignal, 0, 0, 0, 0, .stopped, 40, 0, 0, 0, 0⟩ ∧
    (∀ (b : Fin 4) (i : Fin 16),
      u.entry b i = ⟨false, .continuous, .keep, false, 0, 1, 0, 1, 0, 0, .one, .one, none, 0⟩) ∧
    u.activeBank = 0 ∧ u.pendingBank = none ∧
    (∀ i : Fin 16, u.slot i = ⟨.off, 0, 0, 0, 0, 0⟩) ∧
    (∀ p : Fin 4,
      let q := s.port p
      u.port p =
        { enable := true, ceiling := 256, holdTimeout := 100, queue := [], reservations := 0, openSet := 0
          holdTimer := .stopped, stallOutstanding := false, controlCount := 0, recordsSent := 0, rowsDropped := 0
          ready := q.ready
          transmission := q.transmission.map fun x => { x with stale := true }
          holding := ((q.transmission.map fun x => x.line.blockIds).getD []).length
          state := if q.transmission.isSome then .sending else if q.ready then .idle else .held }) ∧
    u.freeList.Perm (s.freeList ++
      (List.finRange 4).flatMap fun p => (s.port p).queue.flatMap fun r => r.blocks.map (·.id)) ∧
    u.mgmt.val = 2 * m1.toNat + m0.toNat ∧ u.msel1 = m1 ∧ u.msel0 = m0 ∧
    (∀ n : Fin 4, u.line n =
      ⟨.input, .rising, .us1, false, 0, (s.line n).pin, .stopped, [], (s.line n).pin⟩) ∧
    u.fault = ⟨false, false⟩ ∧ u.responses = [] ∧
    u.notify = ⟨#v[⟨true, .urgent⟩, ⟨true, .urgent⟩, ⟨true, .urgent⟩, ⟨true, .routine⟩, ⟨true, .routine⟩,
        ⟨false, .routine⟩, ⟨true, .routine⟩, ⟨true, .routine⟩, ⟨true, .urgent⟩, ⟨true, .routine⟩, ⟨true, .urgent⟩],
      [], [⟨.restarted, .none, .urgent, 1, 0, 0⟩], 0, 0, 20, 4, false⟩ ∧
    u.choices = s.choices ∧ u.pending = s.pending
end

