-- ==== Sys2Proof/Laws/State.lean ====
section
/-! SUPPORT. The small lemmas of the state: what each reading says after each writing, one per field, so that no later
proof unfolds a record update. -/

namespace Sys2Proof.Machine

variable {s : State}

/-! ### One slot, port, line or entry read after one is written -/

@[simp] theorem slot_setSlot (s : State) (i j : Fin 16) (t : Slot) :
    (s.setSlot i t).slot j = if j = i then t else s.slot j := by
  simp only [State.slot, State.setSlot, Fin.getElem_fin, Vector.getElem_set, Fin.ext_iff, eq_comm]

@[simp] theorem port_setPort (s : State) (p r : Fin 4) (q : Port) :
    (s.setPort p q).port r = if r = p then q else s.port r := by
  simp only [State.port, State.setPort, Fin.getElem_fin, Vector.getElem_set, Fin.ext_iff, eq_comm]

@[simp] theorem line_setLine (s : State) (n m : Fin 4) (l : TriggerLine) :
    (s.setLine n l).line m = if m = n then l else s.line m := by
  simp only [State.line, State.setLine, Fin.getElem_fin, Vector.getElem_set, Fin.ext_iff, eq_comm]

@[simp] theorem entry_setEntry (s : State) (b c : Fin 4) (i j : Fin 16) (e : Entry) :
    (s.setEntry b i e).entry c j = if c = b ∧ j = i then e else s.entry c j := by
  simp only [State.entry, State.setEntry, Fin.getElem_fin, Vector.getElem_set, Fin.ext_iff]
  by_cases hb : b.val = c.val <;> by_cases hi : i.val = j.val <;>
    simp_all [eq_comm]

/-! ### The fields that a writing leaves alone -/

@[simp] theorem setSlot_receiver (i : Fin 16) (t : Slot) : (s.setSlot i t).receiver = s.receiver := rfl
@[simp] theorem setSlot_laneLocked (i : Fin 16) (t : Slot) : (s.setSlot i t).laneLocked = s.laneLocked := rfl
@[simp] theorem setSlot_banks (i : Fin 16) (t : Slot) : (s.setSlot i t).banks = s.banks := rfl
@[simp] theorem setSlot_activeBank (i : Fin 16) (t : Slot) : (s.setSlot i t).activeBank = s.activeBank := rfl
@[simp] theorem setSlot_pendingBank (i : Fin 16) (t : Slot) : (s.setSlot i t).pendingBank = s.pendingBank := rfl
@[simp] theorem setSlot_freeList (i : Fin 16) (t : Slot) : (s.setSlot i t).freeList = s.freeList := rfl
@[simp] theorem setSlot_ports (i : Fin 16) (t : Slot) : (s.setSlot i t).ports = s.ports := rfl
@[simp] theorem setSlot_port (i : Fin 16) (t : Slot) (p : Fin 4) : (s.setSlot i t).port p = s.port p := rfl
@[simp] theorem setSlot_mgmt (i : Fin 16) (t : Slot) : (s.setSlot i t).mgmt = s.mgmt := rfl
@[simp] theorem setSlot_msel1 (i : Fin 16) (t : Slot) : (s.setSlot i t).msel1 = s.msel1 := rfl
@[simp] theorem setSlot_msel0 (i : Fin 16) (t : Slot) : (s.setSlot i t).msel0 = s.msel0 := rfl
@[simp] theorem setSlot_lines (i : Fin 16) (t : Slot) : (s.setSlot i t).lines = s.lines := rfl
@[simp] theorem setSlot_fault (i : Fin 16) (t : Slot) : (s.setSlot i t).fault = s.fault := rfl
@[simp] theorem setSlot_responses (i : Fin 16) (t : Slot) : (s.setSlot i t).responses = s.responses := rfl
@[simp] theorem setSlot_notify (i : Fin 16) (t : Slot) : (s.setSlot i t).notify = s.notify := rfl
@[simp] theorem setSlot_choices (i : Fin 16) (t : Slot) : (s.setSlot i t).choices = s.choices := rfl
@[simp] theorem setSlot_pending (i : Fin 16) (t : Slot) : (s.setSlot i t).pending = s.pending := rfl
@[simp] theorem setSlot_governing (i j : Fin 16) (t : Slot) : (s.setSlot i t).governing j = s.governing j := rfl

@[simp] theorem setPort_receiver (p : Fin 4) (q : Port) : (s.setPort p q).receiver = s.receiver := rfl
@[simp] theorem setPort_laneLocked (p : Fin 4) (q : Port) : (s.setPort p q).laneLocked = s.laneLocked := rfl
@[simp] theorem setPort_banks (p : Fin 4) (q : Port) : (s.setPort p q).banks = s.banks := rfl
@[simp] theorem setPort_activeBank (p : Fin 4) (q : Port) : (s.setPort p q).activeBank = s.activeBank := rfl
@[simp] theorem setPort_pendingBank (p : Fin 4) (q : Port) : (s.setPort p q).pendingBank = s.pendingBank := rfl
@[simp] theorem setPort_freeList (p : Fin 4) (q : Port) : (s.setPort p q).freeList = s.freeList := rfl
@[simp] theorem setPort_slots (p : Fin 4) (q : Port) : (s.setPort p q).slots = s.slots := rfl
@[simp] theorem setPort_slot (p : Fin 4) (q : Port) (i : Fin 16) : (s.setPort p q).slot i = s.slot i := rfl
@[simp] theorem setPort_mgmt (p : Fin 4) (q : Port) : (s.setPort p q).mgmt = s.mgmt := rfl
@[simp] theorem setPort_msel1 (p : Fin 4) (q : Port) : (s.setPort p q).msel1 = s.msel1 := rfl
@[simp] theorem setPort_msel0 (p : Fin 4) (q : Port) : (s.setPort p q).msel0 = s.msel0 := rfl
@[simp] theorem setPort_lines (p : Fin 4) (q : Port) : (s.setPort p q).lines = s.lines := rfl
@[simp] theorem setPort_fault (p : Fin 4) (q : Port) : (s.setPort p q).fault = s.fault := rfl
@[simp] theorem setPort_responses (p : Fin 4) (q : Port) : (s.setPort p q).responses = s.responses := rfl
@[simp] theorem setPort_notify (p : Fin 4) (q : Port) : (s.setPort p q).notify = s.notify := rfl
@[simp] theorem setPort_choices (p : Fin 4) (q : Port) : (s.setPort p q).choices = s.choices := rfl
@[simp] theorem setPort_pending (p : Fin 4) (q : Port) : (s.setPort p q).pending = s.pending := rfl
@[simp] theorem setPort_governing (p : Fin 4) (q : Port) (i : Fin 16) : (s.setPort p q).governing i = s.governing i := rfl

@[simp] theorem setReceiver_receiver (r : Receiver) : (s.setReceiver r).receiver = r := rfl
@[simp] theorem setReceiver_laneLocked (r : Receiver) : (s.setReceiver r).laneLocked = s.laneLocked := rfl
@[simp] theorem setReceiver_banks (r : Receiver) : (s.setReceiver r).banks = s.banks := rfl
@[simp] theorem setReceiver_activeBank (r : Receiver) : (s.setReceiver r).activeBank = s.activeBank := rfl
@[simp] theorem setReceiver_pendingBank (r : Receiver) : (s.setReceiver r).pendingBank = s.pendingBank := rfl
@[simp] theorem setReceiver_slots (r : Receiver) : (s.setReceiver r).slots = s.slots := rfl
@[simp] theorem setReceiver_slot (r : Receiver) (i : Fin 16) : (s.setReceiver r).slot i = s.slot i := rfl
@[simp] theorem setReceiver_freeList (r : Receiver) : (s.setReceiver r).freeList = s.freeList := rfl
@[simp] theorem setReceiver_ports (r : Receiver) : (s.setReceiver r).ports = s.ports := rfl
@[simp] theorem setReceiver_port (r : Receiver) (p : Fin 4) : (s.setReceiver r).port p = s.port p := rfl
@[simp] theorem setReceiver_mgmt (r : Receiver) : (s.setReceiver r).mgmt = s.mgmt := rfl
@[simp] theorem setReceiver_lines (r : Receiver) : (s.setReceiver r).lines = s.lines := rfl
@[simp] theorem setReceiver_fault (r : Receiver) : (s.setReceiver r).fault = s.fault := rfl
@[simp] theorem setReceiver_responses (r : Receiver) : (s.setReceiver r).responses = s.responses := rfl
@[simp] theorem setReceiver_notify (r : Receiver) : (s.setReceiver r).notify = s.notify := rfl
@[simp] theorem setReceiver_choices (r : Receiver) : (s.setReceiver r).choices = s.choices := rfl
@[simp] theorem setReceiver_pending (r : Receiver) : (s.setReceiver r).pending = s.pending := rfl
@[simp] theorem setReceiver_governing (r : Receiver) (i : Fin 16) : (s.setReceiver r).governing i = s.governing i := rfl

@[simp] theorem setNotify_notify (n : NotifyUnit) : (s.setNotify n).notify = n := rfl
@[simp] theorem setNotify_receiver (n : NotifyUnit) : (s.setNotify n).receiver = s.receiver := rfl
@[simp] theorem setNotify_laneLocked (n : NotifyUnit) : (s.setNotify n).laneLocked = s.laneLocked := rfl
@[simp] theorem setNotify_banks (n : NotifyUnit) : (s.setNotify n).banks = s.banks := rfl
@[simp] theorem setNotify_activeBank (n : NotifyUnit) : (s.setNotify n).activeBank = s.activeBank := rfl
@[simp] theorem setNotify_pendingBank (n : NotifyUnit) : (s.setNotify n).pendingBank = s.pendingBank := rfl
@[simp] theorem setNotify_slots (n : NotifyUnit) : (s.setNotify n).slots = s.slots := rfl
@[simp] theorem setNotify_slot (n : NotifyUnit) (i : Fin 16) : (s.setNotify n).slot i = s.slot i := rfl
@[simp] theorem setNotify_freeList (n : NotifyUnit) : (s.setNotify n).freeList = s.freeList := rfl
@[simp] theorem setNotify_ports (n : NotifyUnit) : (s.setNotify n).ports = s.ports := rfl
@[simp] theorem setNotify_port (n : NotifyUnit) (p : Fin 4) : (s.setNotify n).port p = s.port p := rfl
@[simp] theorem setNotify_mgmt (n : NotifyUnit) : (s.setNotify n).mgmt = s.mgmt := rfl
@[simp] theorem setNotify_lines (n : NotifyUnit) : (s.setNotify n).lines = s.lines := rfl
@[simp] theorem setNotify_fault (n : NotifyUnit) : (s.setNotify n).fault = s.fault := rfl
@[simp] theorem setNotify_responses (n : NotifyUnit) : (s.setNotify n).responses = s.responses := rfl
@[simp] theorem setNotify_choices (n : NotifyUnit) : (s.setNotify n).choices = s.choices := rfl
@[simp] theorem setNotify_pending (n : NotifyUnit) : (s.setNotify n).pending = s.pending := rfl
@[simp] theorem setNotify_governing (n : NotifyUnit) (i : Fin 16) : (s.setNotify n).governing i = s.governing i := rfl

@[simp] theorem setLine_receiver (m : Fin 4) (l : TriggerLine) : (s.setLine m l).receiver = s.receiver := rfl
@[simp] theorem setLine_laneLocked (m : Fin 4) (l : TriggerLine) : (s.setLine m l).laneLocked = s.laneLocked := rfl
@[simp] theorem setLine_banks (m : Fin 4) (l : TriggerLine) : (s.setLine m l).banks = s.banks := rfl
@[simp] theorem setLine_activeBank (m : Fin 4) (l : TriggerLine) : (s.setLine m l).activeBank = s.activeBank := rfl
@[simp] theorem setLine_pendingBank (m : Fin 4) (l : TriggerLine) : (s.setLine m l).pendingBank = s.pendingBank := rfl
@[simp] theorem setLine_slots (m : Fin 4) (l : TriggerLine) : (s.setLine m l).slots = s.slots := rfl
@[simp] theorem setLine_slot (m : Fin 4) (l : TriggerLine) (i : Fin 16) : (s.setLine m l).slot i = s.slot i := rfl
@[simp] theorem setLine_freeList (m : Fin 4) (l : TriggerLine) : (s.setLine m l).freeList = s.freeList := rfl
@[simp] theorem setLine_ports (m : Fin 4) (l : TriggerLine) : (s.setLine m l).ports = s.ports := rfl
@[simp] theorem setLine_port (m : Fin 4) (l : TriggerLine) (p : Fin 4) : (s.setLine m l).port p = s.port p := rfl
@[simp] theorem setLine_mgmt (m : Fin 4) (l : TriggerLine) : (s.setLine m l).mgmt = s.mgmt := rfl
@[simp] theorem setLine_fault (m : Fin 4) (l : TriggerLine) : (s.setLine m l).fault = s.fault := rfl
@[simp] theorem setLine_responses (m : Fin 4) (l : TriggerLine) : (s.setLine m l).responses = s.responses := rfl
@[simp] theorem setLine_notify (m : Fin 4) (l : TriggerLine) : (s.setLine m l).notify = s.notify := rfl
@[simp] theorem setLine_choices (m : Fin 4) (l : TriggerLine) : (s.setLine m l).choices = s.choices := rfl
@[simp] theorem setLine_pending (m : Fin 4) (l : TriggerLine) : (s.setLine m l).pending = s.pending := rfl
@[simp] theorem setLine_governing (m : Fin 4) (l : TriggerLine) (i : Fin 16) : (s.setLine m l).governing i = s.governing i := rfl

@[simp] theorem setEntry_receiver (b : Fin 4) (i : Fin 16) (e : Entry) : (s.setEntry b i e).receiver = s.receiver := rfl
@[simp] theorem setEntry_laneLocked (b : Fin 4) (i : Fin 16) (e : Entry) : (s.setEntry b i e).laneLocked = s.laneLocked := rfl
@[simp] theorem setEntry_activeBank (b : Fin 4) (i : Fin 16) (e : Entry) : (s.setEntry b i e).activeBank = s.activeBank := rfl
@[simp] theorem setEntry_pendingBank (b : Fin 4) (i : Fin 16) (e : Entry) : (s.setEntry b i e).pendingBank = s.pendingBank := rfl
@[simp] theorem setEntry_slots (b : Fin 4) (i : Fin 16) (e : Entry) : (s.setEntry b i e).slots = s.slots := rfl
@[simp] theorem setEntry_slot (b : Fin 4) (i j : Fin 16) (e : Entry) : (s.setEntry b i e).slot j = s.slot j := rfl
@[simp] theorem setEntry_freeList (b : Fin 4) (i : Fin 16) (e : Entry) : (s.setEntry b i e).freeList = s.freeList := rfl
@[simp] theorem setEntry_ports (b : Fin 4) (i : Fin 16) (e : Entry) : (s.setEntry b i e).ports = s.ports := rfl
@[simp] theorem setEntry_port (b : Fin 4) (i : Fin 16) (e : Entry) (p : Fin 4) : (s.setEntry b i e).port p = s.port p := rfl
@[simp] theorem setEntry_mgmt (b : Fin 4) (i : Fin 16) (e : Entry) : (s.setEntry b i e).mgmt = s.mgmt := rfl
@[simp] theorem setEntry_lines (b : Fin 4) (i : Fin 16) (e : Entry) : (s.setEntry b i e).lines = s.lines := rfl
@[simp] theorem setEntry_fault (b : Fin 4) (i : Fin 16) (e : Entry) : (s.setEntry b i e).fault = s.fault := rfl
@[simp] theorem setEntry_responses (b : Fin 4) (i : Fin 16) (e : Entry) : (s.setEntry b i e).responses = s.responses := rfl
@[simp] theorem setEntry_notify (b : Fin 4) (i : Fin 16) (e : Entry) : (s.setEntry b i e).notify = s.notify := rfl
@[simp] theorem setEntry_choices (b : Fin 4) (i : Fin 16) (e : Entry) : (s.setEntry b i e).choices = s.choices := rfl
@[simp] theorem setEntry_pending (b : Fin 4) (i : Fin 16) (e : Entry) : (s.setEntry b i e).pending = s.pending := rfl

/-! ### The same through the raw vectors, as the derived conditions of Flags.lean read them -/

theorem ports_eq_port (s : State) (p : Fin 4) : s.ports[p] = s.port p := rfl
theorem slots_eq_slot (s : State) (i : Fin 16) : s.slots[i] = s.slot i := rfl
theorem lines_eq_line (s : State) (n : Fin 4) : s.lines[n] = s.line n := rfl

/-- Writing what a part already holds changes nothing. -/
@[simp] theorem setPort_self (s : State) (p : Fin 4) : s.setPort p (s.port p) = s := by
  have h : s.ports.set p.val s.ports[p] = s.ports := by
    apply Vector.ext
    intro i hi
    by_cases h : p.val = i <;> simp [h]
  simp only [State.setPort, State.port, h]

@[simp] theorem setSlot_self (s : State) (i : Fin 16) : s.setSlot i (s.slot i) = s := by
  have h : s.slots.set i.val s.slots[i] = s.slots := by
    apply Vector.ext
    intro j hj
    by_cases h : i.val = j <;> simp [h]
  simp only [State.setSlot, State.slot, h]

@[simp] theorem setPort_setPort (s : State) (p : Fin 4) (q r : Port) :
    (s.setPort p q).setPort p r = s.setPort p r := by
  simp [State.setPort]

@[simp] theorem setSlot_setSlot (s : State) (i : Fin 16) (t u : Slot) :
    (s.setSlot i t).setSlot i u = s.setSlot i u := by
  simp [State.setSlot]

/-- Two states' ports agree when each port does. -/
theorem ports_ext {s t : State} (h : ∀ p : Fin 4, s.port p = t.port p) : s.ports = t.ports := by
  apply Vector.ext
  intro i hi
  exact h ⟨i, hi⟩

/-- Two states' slots agree when each slot does. -/
theorem slots_ext {s t : State} (h : ∀ i : Fin 16, s.slot i = t.slot i) : s.slots = t.slots := by
  apply Vector.ext
  intro i hi
  exact h ⟨i, hi⟩

end Sys2Proof.Machine
end

