-- ==== Sys2Proof/Laws/Settle.lean ====
section
/-! SUPPORT. What the end of a step does, said once: `settle` brings u to the t with StepEnds u t. A proof about a step
cites this and never unfolds `settle`. -/

namespace Sys2Proof.Machine

/-! ### One port -/

/-- What `nextSource` reads. -/
theorem nextSource_congr {s u : State} {p : Fin 4} (hp : s.port p = u.port p) (hm : s.mgmt = u.mgmt)
    (hr : p = u.mgmt → s.responses = u.responses) (hn : p = u.mgmt → s.notify = u.notify) :
    nextSource s p = nextSource u p := by
  unfold nextSource
  by_cases h : p = u.mgmt
  · simp [arbiterChoice, hm, hp, hr h, hn h]
  · simp [hm, hp, h]

theorem sendsNext_congr {s u : State} {p : Fin 4} (hp : s.port p = u.port p) (hm : s.mgmt = u.mgmt)
    (hr : p = u.mgmt → s.responses = u.responses) (hn : p = u.mgmt → s.notify = u.notify) :
    s.sendsNext p = u.sendsNext p := by
  simp [State.sendsNext, hp, nextSource_congr hp hm hr hn]

/-- What `holdCondition` reads. -/
theorem holdCondition_congr {s u : State} {p : Fin 4} (hp : s.port p = u.port p) (hm : s.mgmt = u.mgmt)
    (hr : p = u.mgmt → s.responses = u.responses) (hn : p = u.mgmt → s.notify = u.notify) :
    s.holdCondition p = u.holdCondition p := by
  have hw : s.workWaiting p = u.workWaiting p := by
    unfold State.workWaiting
    by_cases h : p = u.mgmt
    · simp only [ports_eq_port, hp, hm, hr h, hn h]
    · have hf : (p == u.mgmt) = false := by simpa using h
      simp only [ports_eq_port, hp, hm, hf, Bool.false_and]
  simp only [State.holdCondition, ports_eq_port, hp, hw]

theorem holdTimerFrom_congr {s u : State} {p : Fin 4} (old : Timer) (hp : s.port p = u.port p) (hm : s.mgmt = u.mgmt)
    (hr : p = u.mgmt → s.responses = u.responses) (hn : p = u.mgmt → s.notify = u.notify) :
    s.holdTimerFrom p old = u.holdTimerFrom p old := by
  simp [State.holdTimerFrom, hp, holdCondition_congr hp hm hr hn]

/-- The responses left when port p has begun its line. -/
def State.responsesAfter (u : State) (p : Fin 4) : List Response :=
  match u.sendsNext p with
  | some (.response _) => u.responses.tail
  | _ => u.responses

/-- The notification unit when port p has begun its line. -/
def State.notifyAfter (u : State) (p : Fin 4) : NotifyUnit :=
  match u.sendsNext p with
  | some (.notification o) => u.notify.begin o
  | _ => u.notify

theorem sendsNext_ne_mgmt {u : State} {p : Fin 4} (h : p ≠ u.mgmt) :
    u.responsesAfter p = u.responses ∧ u.notifyAfter p = u.notify := by
  have : ∀ src, u.sendsNext p = some src → ∃ l, src = .departure l := by
    intro src hs
    unfold State.sendsNext nextSource at hs
    simp only [h, if_false] at hs
    split at hs
    · simp only [Option.map_eq_some_iff] at hs
      obtain ⟨l, -, rfl⟩ := hs
      exact ⟨l, rfl⟩
    · cases hs
  unfold State.responsesAfter State.notifyAfter
  cases hs : u.sendsNext p with
  | none => simp
  | some src => obtain ⟨l, rfl⟩ := this src hs; simp

/-- The beginning of one port's line. -/
theorem beginIfWaiting_eq (p : Fin 4) (u : State) :
    beginIfWaiting p u =
      { u.setPort p (u.portSending p) with responses := u.responsesAfter p, notify := u.notifyAfter p } := by
  unfold beginIfWaiting State.portSending State.responsesAfter State.notifyAfter State.sendsNext
  by_cases hb : (u.port p).mayBegin
  · simp only [hb, if_true]
    cases hs : nextSource u p with
    | none => simp
    | some src =>
      rcases src with (_ | _ | _ | _) | r | o <;>
        simp [beginLine, takeFromSource, Port.sending, Source.fromQueue, Source.countAfter] <;> rfl
  · simp [hb]

/-- One port at the end of a step. -/
theorem settlePort_eq (p : Fin 4) (u : State) :
    settlePort p u =
      { u.setPort p { u.portSending p with
          holdTimer := (beginIfWaiting p u).holdTimerFrom p (u.port p).holdTimer } with
        responses := u.responsesAfter p, notify := u.notifyAfter p } := by
  have hport : (beginIfWaiting p u).port p = u.portSending p := by
    rw [beginIfWaiting_eq]; simp [State.port, State.setPort]
  have hold : (u.portSending p).holdTimer = (u.port p).holdTimer := by
    unfold State.portSending; split <;> rfl
  unfold settlePort syncHoldTimer
  simp only [State.holdTimerFrom, hport, hold]
  rw [beginIfWaiting_eq]
  simp only [State.setPort, Vector.set_set]

theorem settlePort_port (p r : Fin 4) (u : State) :
    (settlePort p u).port r =
      if r = p then { u.portSending p with
        holdTimer := (settlePort p u).holdTimerFrom p (u.port p).holdTimer }
      else u.port r := by
  have key : (settlePort p u).port r =
      if r = p then { u.portSending p with
        holdTimer := (beginIfWaiting p u).holdTimerFrom p (u.port p).holdTimer }
      else u.port r := by
    rw [settlePort_eq]
    exact port_setPort u p r _
  by_cases h : r = p
  · subst h
    rw [key]
    simp only [if_true]
    congr 1
    have hb : (beginIfWaiting r u).port r = u.portSending r := by
      rw [beginIfWaiting_eq]; simp [State.port, State.setPort]
    have ht : (settlePort r u).port r =
        { u.portSending r with holdTimer := (beginIfWaiting r u).holdTimerFrom r (u.port r).holdTimer } := by
      rw [settlePort_eq]; simp [State.port, State.setPort]
    have hr : (settlePort r u).responses = (beginIfWaiting r u).responses := by
      rw [settlePort_eq, beginIfWaiting_eq]
    have hn : (settlePort r u).notify = (beginIfWaiting r u).notify := by
      rw [settlePort_eq, beginIfWaiting_eq]
    have hm : (settlePort r u).mgmt = (beginIfWaiting r u).mgmt := by
      rw [settlePort_eq, beginIfWaiting_eq]; rfl
    have hc : (settlePort r u).holdCondition r = (beginIfWaiting r u).holdCondition r := by
      unfold State.holdCondition State.workWaiting
      simp only [ports_eq_port, hb, ht, hr, hn, hm]
    simp only [State.holdTimerFrom, hc, hb, ht]
  · simp [key, h]

theorem settlePort_mgmt (p : Fin 4) (u : State) : (settlePort p u).mgmt = u.mgmt := by rw [settlePort_eq]; rfl

/-! ### All four -/

/-- What settling some of the ports, each once, does. -/
theorem foldl_settlePort (ps : List (Fin 4)) (hd : ps.Nodup) (u : State) :
    let t := ps.foldl (fun s p => settlePort p s) u
    (∀ p, t.port p =
      if p ∈ ps then { u.portSending p with holdTimer := t.holdTimerFrom p (u.port p).holdTimer } else u.port p) ∧
    t.responses = (if u.mgmt ∈ ps then u.responsesAfter u.mgmt else u.responses) ∧
    t.notify = (if u.mgmt ∈ ps then u.notifyAfter u.mgmt else u.notify) ∧
    t = { u with ports := t.ports, responses := t.responses, notify := t.notify } := by
  induction ps generalizing u with
  | nil => simp
  | cons p ps ih =>
    simp only [List.nodup_cons] at hd
    obtain ⟨hp, hd⟩ := hd
    have ih := ih hd (settlePort p u)
    simp only [List.foldl_cons]
    generalize ht : List.foldl (fun s p => settlePort p s) (settlePort p u) ps = t at ih ⊢
    obtain ⟨h1, h2, h3, h4⟩ := ih
    have hm : (settlePort p u).mgmt = u.mgmt := settlePort_mgmt p u
    have hr : (settlePort p u).responses = u.responsesAfter p := by rw [settlePort_eq]
    have hn : (settlePort p u).notify = u.notifyAfter p := by rw [settlePort_eq]
    have hmt : t.mgmt = u.mgmt := by rw [h4]; exact hm
    have other : ∀ q, q ∈ ps → (settlePort p u).port q = u.port q := by
      intro q hq
      rw [settlePort_port]
      simp only [show q ≠ p from fun h => hp (h ▸ hq), if_false]
    have hsame : ∀ q, q ∈ ps → (settlePort p u).portSending q = u.portSending q := by
      intro q hq
      have hqp : q ≠ p := fun h => hp (h ▸ hq)
      have hrq : q = u.mgmt → (settlePort p u).responses = u.responses := by
        rintro rfl
        rw [hr, (sendsNext_ne_mgmt (u := u) (p := p) (fun h => hqp h.symm)).1]
      have hnq : q = u.mgmt → (settlePort p u).notify = u.notify := by
        rintro rfl
        rw [hn, (sendsNext_ne_mgmt (u := u) (p := p) (fun h => hqp h.symm)).2]
      have hs : (settlePort p u).sendsNext q = u.sendsNext q := sendsNext_congr (other q hq) hm hrq hnq
      unfold State.portSending
      rw [hs, other q hq]
      cases hsn : u.sendsNext q with
      | none => rfl
      | some src =>
        rcases src with l | r | o
        · rfl
        · rfl
        · have hq : q = u.mgmt := by
            unfold State.sendsNext nextSource at hsn
            by_contra hne
            simp only [hne, if_false] at hsn
            split at hsn
            · simp at hsn
            · cases hsn
          simp only [sourceLine, hnq hq]
    refine ⟨?_, ?_, ?_, ?_⟩
    · intro q
      rw [h1 q]
      by_cases hq : q ∈ ps
      · simp only [hq, if_true, List.mem_cons, or_true, hsame q hq, other q hq]
      · by_cases hqp : q = p
        · subst hqp
          have hown : t.port q = (settlePort q u).port q := by rw [h1 q]; simp [hq]
          have hrr : q = (settlePort q u).mgmt → t.responses = (settlePort q u).responses := by
            intro h; rw [h2]; simp [← h, hq]
          have hnn : q = (settlePort q u).mgmt → t.notify = (settlePort q u).notify := by
            intro h; rw [h3]; simp [← h, hq]
          have := holdTimerFrom_congr (s := t) (u := settlePort q u) (p := q) (u.port q).holdTimer hown
            (hmt.trans hm.symm) hrr hnn
          simp only [hq, if_false, List.mem_cons, true_or, if_true, this]
          rw [settlePort_port]
          simp
        · simp only [hq, if_false, List.mem_cons, hqp, or_self]
          rw [settlePort_port]
          simp [hqp]
    · rw [h2, hm]
      by_cases hmp : u.mgmt = p
      · subst hmp; simp [hp, hr]
      · have hne := (sendsNext_ne_mgmt (u := u) (p := p) (fun h => hmp h.symm))
        by_cases hin : u.mgmt ∈ ps
        · have hs : (settlePort p u).sendsNext u.mgmt = u.sendsNext u.mgmt :=
            sendsNext_congr (other _ hin) hm (fun _ => hr.trans hne.1) (fun _ => hn.trans hne.2)
          have hr' := hr.trans hne.1
          simp only [hin, if_true, List.mem_cons, or_true]
          unfold State.responsesAfter
          rw [hs, hr']
        · simp [hin, hmp, hr, hne.1]
    · rw [h3, hm]
      by_cases hmp : u.mgmt = p
      · subst hmp; simp [hp, hn]
      · have hne := (sendsNext_ne_mgmt (u := u) (p := p) (fun h => hmp h.symm))
        by_cases hin : u.mgmt ∈ ps
        · have hs : (settlePort p u).sendsNext u.mgmt = u.sendsNext u.mgmt :=
            sendsNext_congr (other _ hin) hm (fun _ => hr.trans hne.1) (fun _ => hn.trans hne.2)
          have hn' := hn.trans hne.2
          simp only [hin, if_true, List.mem_cons, or_true]
          unfold State.notifyAfter
          rw [hs, hn']
        · simp [hin, hmp, hn, hne.2]
    · rw [h4, settlePort_eq]
      rfl

/-- The end of a step: `settle u` is the t with StepEnds u t. -/
theorem stepEnds_settle (u : State) : StepEnds u (settle u) := by
  have h := foldl_settlePort allPorts (List.nodup_finRange 4) u
  obtain ⟨h1, h2, h3, h4⟩ := h
  have all : ∀ p : Fin 4, p ∈ allPorts := fun p => List.mem_finRange p
  refine ⟨fun p => ?_, ?_, ?_, h4⟩
  · have := h1 p
    rw [if_pos (all p)] at this
    exact this
  · rw [if_pos (all _)] at h2; exact h2
  · rw [if_pos (all _)] at h3; exact h3

/-- A step that has an effect ends in a next state. -/
theorem conclude_some (s u : State) : ∃ t, conclude s (some u) = .next t ∧ StepEnds u t :=
  ⟨settle u, rfl, stepEnds_settle u⟩

/-! ### What the end of a step leaves alone -/

namespace StepEnds

variable {u t : State} (h : StepEnds u t)
include h

theorem laneLocked : t.laneLocked = u.laneLocked := by rw [h.rest]
theorem receiver : t.receiver = u.receiver := by rw [h.rest]
theorem banks : t.banks = u.banks := by rw [h.rest]
theorem activeBank : t.activeBank = u.activeBank := by rw [h.rest]
theorem pendingBank : t.pendingBank = u.pendingBank := by rw [h.rest]
theorem slots : t.slots = u.slots := by rw [h.rest]
theorem slot (i : Fin 16) : t.slot i = u.slot i := by rw [h.rest]; rfl
theorem freeList : t.freeList = u.freeList := by rw [h.rest]
theorem mgmt : t.mgmt = u.mgmt := by rw [h.rest]
theorem lines : t.lines = u.lines := by rw [h.rest]
theorem fault : t.fault = u.fault := by rw [h.rest]
theorem choices : t.choices = u.choices := by rw [h.rest]
theorem pending : t.pending = u.pending := by rw [h.rest]
theorem governing (i : Fin 16) : t.governing i = u.governing i := by rw [h.rest]; rfl

end StepEnds

/-- The fields of a port that the beginning of a line leaves alone. -/
theorem portSending_kept (u : State) (p : Fin 4) :
    (u.portSending p).enable = (u.port p).enable ∧ (u.portSending p).ceiling = (u.port p).ceiling ∧
    (u.portSending p).holding = (u.port p).holding ∧ (u.portSending p).holdTimeout = (u.port p).holdTimeout ∧
    (u.portSending p).reservations = (u.port p).reservations ∧ (u.portSending p).openSet = (u.port p).openSet ∧
    (u.portSending p).stallOutstanding = (u.port p).stallOutstanding ∧
    (u.portSending p).recordsSent = (u.port p).recordsSent ∧ (u.portSending p).rowsDropped = (u.port p).rowsDropped ∧
    (u.portSending p).ready = (u.port p).ready := by
  unfold State.portSending
  cases u.sendsNext p <;> simp [Port.sending]

/-- What each kind of choice of the arbiter says of its source (R122). -/
theorem arbiterChoice_source {s : State} {p : Fin 4} {src : Source} (h : arbiterChoice s p = some src) :
    match src with
    | .departure l => (s.port p).departureOffer = some l
    | .response r => s.responses.head? = some r
    | .notification o => s.notify.offer = some o := by
  unfold arbiterChoice at h
  simp only at h
  cases hd : (s.port p).departureOffer <;> cases hr : s.responses.head? <;> cases ho : s.notify.offer <;>
    simp only [hd, hr, ho, Option.map_none, Option.map_some, Option.or_none, Option.none_or, Option.some_or,
      ite_self, reduceCtorEq, Option.some.injEq] at h <;>
    first
      | (subst h; simp)
      | (split at h <;> simp only [Option.some.injEq] at h <;> subst h <;> simp)

/-- A source of a port's next line that is a departure record is the head of its queue. -/
theorem sendsNext_departure {u : State} {p : Fin 4} {r : Record} (h : u.sendsNext p = some (.departure (.departure r))) :
    (u.port p).transmission = none ∧ ∃ rest, (u.port p).queue = r :: rest := by
  unfold State.sendsNext at h
  split at h
  case isFalse => cases h
  case isTrue hb =>
    have ht : (u.port p).transmission = none := by
      simp only [Port.mayBegin, Bool.and_eq_true] at hb
      simpa using hb.2
    have key : (u.port p).departureOffer = some (.departure r) := by
      unfold nextSource at h
      split at h
      · exact arbiterChoice_source h
      · simpa using h
    refine ⟨ht, ?_⟩
    unfold Port.departureOffer at key
    split at key
    · simp at key
    · cases hq : (u.port p).queue with
      | nil => simp [hq] at key
      | cons a rest => simp [hq] at key; exact ⟨rest, by rw [key]⟩

/-- What a source sends is a departure record exactly when it is taken from the queue. -/
theorem sourceLine_departure {u : State} {src : Source} {r : Record} (h : sourceLine u src = .departure r) :
    src = .departure (.departure r) := by
  rcases src with l | x | o
  · simp only [sourceLine] at h; rw [h]
  · simp [sourceLine] at h
  · rcases o with e | e <;> simp [sourceLine, NotifyUnit.lineOf] at h

/-- The records with a place keep their order when the head passes into transmission (R99, R108). -/
theorem portSending_departures (u : State) (p : Fin 4) : (u.portSending p).departures = (u.port p).departures := by
  unfold State.portSending
  cases hs : u.sendsNext p with
  | none => rfl
  | some src =>
    have ht : (u.port p).transmission = none := by
      unfold State.sendsNext at hs
      split at hs
      case isFalse => cases hs
      case isTrue hb =>
        simp only [Port.mayBegin, Bool.and_eq_true] at hb
        simpa using hb.2
    rcases src with l | x | o
    · cases l with
      | departure r =>
        obtain ⟨-, rest, hq⟩ := sendsNext_departure hs
        simp [Port.sending, Port.departures, Port.departing, Source.fromQueue, sourceLine, ht, hq]
      | abandonedClose i => simp [Port.sending, Port.departures, Port.departing, Source.fromQueue, sourceLine, ht]
      | response r => simp [Port.sending, Port.departures, Port.departing, Source.fromQueue, sourceLine, ht]
      | notification n => simp [Port.sending, Port.departures, Port.departing, Source.fromQueue, sourceLine, ht]
    · simp [Port.sending, Port.departures, Port.departing, Source.fromQueue, sourceLine, ht]
    · cases o <;>
        simp [Port.sending, Port.departures, Port.departing, Source.fromQueue, sourceLine, NotifyUnit.lineOf, ht]

theorem StepEnds.departures {u t : State} (h : StepEnds u t) (p : Fin 4) :
    (t.port p).departures = (u.port p).departures := by
  rw [h.port p]; exact portSending_departures u p

/-- After the end of a step a port that may begin a line has none to begin. -/
theorem StepEnds.nothing_waits {u t : State} (h : StepEnds u t) (p : Fin 4) :
    (t.port p).mayBegin = true → nextSource t p = none := by
  intro hb
  have hp := h.port p
  cases hs : u.sendsNext p with
  | some src =>
    simp [State.portSending, hs, Port.sending] at hp
    rw [hp] at hb
    simp [Port.mayBegin] at hb
  | none =>
    simp only [State.portSending, hs] at hp
    have hub : (u.port p).mayBegin = true := by rw [hp] at hb; exact hb
    have hnone : nextSource u p = none := by simpa [State.sendsNext, hub] using hs
    have hd : (t.port p).departureOffer = (u.port p).departureOffer := by rw [hp]; rfl
    have hc : (t.port p).controlCount = (u.port p).controlCount := by rw [hp]
    unfold nextSource at hnone ⊢
    rw [h.mgmt]
    by_cases hm : p = u.mgmt
    · subst hm
      have hr : t.responses = u.responses := by rw [h.responses, hs]
      have hn : t.notify = u.notify := by rw [h.notify, hs]
      simp only [if_true, arbiterChoice, hd, hc, hr, hn] at hnone ⊢
      exact hnone
    · simp only [hm, if_false, hd] at hnone ⊢
      exact hnone

/-- After the end of a step each hold timer runs exactly under R115. -/
theorem StepEnds.holdTimer {u t : State} (h : StepEnds u t) (p : Fin 4) :
    (t.port p).holdTimer.isRunning = true ↔ (t.holdCondition p = true ∧ 0 < (t.port p).holdTimeout) := by
  have hp : (t.port p).holdTimer = t.holdTimerFrom p (u.port p).holdTimer := by
    conv_lhs => rw [h.port p]
  rw [hp, State.holdTimerFrom]
  split
  · rename_i hc
    simp only [Bool.and_eq_true, decide_eq_true_eq] at hc
    simp only [hc, and_self, iff_true]
    split
    · assumption
    · rfl
  · rename_i hc
    simp only [Bool.and_eq_true, decide_eq_true_eq] at hc
    simp [hc, Timer.isRunning]

/-- The responses that hold places keep their order when the head passes into transmission (R142). -/
theorem StepEnds.outstanding {u t : State} (h : StepEnds u t) : t.outstanding = u.outstanding := by
  have hp := h.port u.mgmt
  have hr := h.responses
  have ho : ∀ v : State, v.outstanding = responseInTransmission (v.port v.mgmt).transmission ++ v.responses := fun _ => rfl
  rw [ho, ho, h.mgmt, hr, hp]
  unfold State.portSending
  cases hs : u.sendsNext u.mgmt with
  | none => rfl
  | some src =>
    have hb : (u.port u.mgmt).transmission = none ∧ arbiterChoice u u.mgmt = some src := by
      unfold State.sendsNext nextSource at hs
      split at hs
      case isFalse => cases hs
      case isTrue hb =>
        simp only [Port.mayBegin, Bool.and_eq_true] at hb
        exact ⟨by simpa using hb.2, by simpa using hs⟩
    have hsrc := arbiterChoice_source hb.2
    rcases src with l | x | o
    · simp only at hsrc
      have : ∀ r, l ≠ .response r := by
        rintro r rfl
        unfold Port.departureOffer at hsrc
        split at hsrc <;> simp at hsrc
      cases l <;> simp_all [Port.sending, sourceLine, responseInTransmission]
    · simp only [List.head?_eq_some_iff] at hsrc
      obtain ⟨rest, hx⟩ := hsrc
      simp [Port.sending, sourceLine, responseInTransmission, hb.1, hx]
    · cases o <;> simp [Port.sending, sourceLine, NotifyUnit.lineOf, responseInTransmission, hb.1]

end Sys2Proof.Machine
end

