-- ==== Sys2Proof/Laws/Ops.lean ====
section
/-! SUPPORT. What each shared operation does, said once: raising an event, allocating and flushing blocks, walking the
slots or ports in ascending order, ending window frames, taking a command. -/

namespace Sys2Proof.Machine

/-! ### Events -/

/-- Raising an event changes the notification unit alone, and that as R154 and R157 say. -/
theorem raiseEvent_eq (c : EventClass) (sub : Subject) (hi lo : Byte) (s : State) :
    raiseEvent c sub hi lo s = { s with notify := s.notify.takeAll [s.eventOf c sub hi lo] } := by
  simp only [raiseEvent, NotifyUnit.takeAll, List.foldl_cons, List.foldl_nil, State.setNotify]
  have : (s.eventOf c sub hi lo).cls = c := rfl
  rw [this]
  split <;> rfl

theorem takeAll_append (n : NotifyUnit) (a b : List PendingEntry) : n.takeAll (a ++ b) = (n.takeAll a).takeAll b := by
  simp [NotifyUnit.takeAll]

@[simp] theorem takeAll_nil (n : NotifyUnit) : n.takeAll [] = n := rfl

/-- The three outcomes of an event of an enabled class (R157, R158). -/
theorem take_cases (n : NotifyUnit) (ev : PendingEntry) :
    ((∃ e ∈ n.pending, e.sameKey ev = true) ∧
      n.take ev = { n with pending := n.pending.map fun e => if e.sameKey ev then e.coalesce ev else e }) ∨
    ((∀ e ∈ n.pending, e.sameKey ev = false) ∧ n.occupancy < 32 ∧ n.take ev = { n with pending := n.pending ++ [ev] }) ∨
    ((∀ e ∈ n.pending, e.sameKey ev = false) ∧ 32 ≤ n.occupancy ∧
      n.take ev = { n with lostCount := min (n.lostCount + 1) 255 }) := by
  unfold NotifyUnit.take
  by_cases h : n.pending.any (fun x => x.sameKey ev)
  · left; simp only [h, if_true]; simpa using h
  · right
    have h' : ∀ e ∈ n.pending, e.sameKey ev = false := by simpa using h
    simp only [h]
    by_cases ho : n.occupancy < 32
    · left; exact ⟨h', ho, by simp [ho]⟩
    · right; exact ⟨h', by omega, by simp [ho]⟩

/-- What an event never changes in the notification unit. -/
theorem take_kept (n : NotifyUnit) (ev : PendingEntry) :
    (n.take ev).settings = n.settings ∧ (n.take ev).sent = n.sent ∧ (n.take ev).nextSequence = n.nextSequence ∧
    (n.take ev).retryInterval = n.retryInterval ∧ (n.take ev).retryLimit = n.retryLimit ∧
    (n.take ev).silent = n.silent := by
  rcases take_cases n ev with ⟨-, h⟩ | ⟨-, -, h⟩ | ⟨-, -, h⟩ <;> rw [h] <;> simp

theorem takeAll_kept (n : NotifyUnit) (evs : List PendingEntry) :
    (n.takeAll evs).settings = n.settings ∧ (n.takeAll evs).sent = n.sent ∧
    (n.takeAll evs).nextSequence = n.nextSequence ∧ (n.takeAll evs).retryInterval = n.retryInterval ∧
    (n.takeAll evs).retryLimit = n.retryLimit ∧ (n.takeAll evs).silent = n.silent := by
  induction evs generalizing n with
  | nil => simp
  | cons e evs ih =>
    have h := ih (if (n.setting e.cls).enable then n.take e else n)
    simp only [NotifyUnit.takeAll, List.foldl_cons] at h ⊢
    obtain ⟨h1, h2, h3, h4, h5, h6⟩ := h
    obtain ⟨k1, k2, k3, k4, k5, k6⟩ := take_kept n e
    rw [h1, h2, h3, h4, h5, h6]
    split <;> simp [k1, k2, k3, k4, k5, k6]

@[simp] theorem takeAll_setting (n : NotifyUnit) (evs : List PendingEntry) (c : EventClass) :
    (n.takeAll evs).setting c = n.setting c := by
  unfold NotifyUnit.setting; rw [(takeAll_kept n evs).1]

/-! ### Walking the slots and the ports -/

/-- An invariant that each slot's turn keeps. -/
theorem forSlots_invariant {P : State → Prop} {f : Fin 16 → State → State} (h : ∀ i s, P s → P (f i s)) {s : State}
    (hs : P s) : P (forSlots f s) := by
  unfold forSlots
  generalize allSlots = l
  induction l generalizing s with
  | nil => exact hs
  | cons i l ih => exact ih (h i s hs)

/-- The same for the ports. -/
theorem forPorts_invariant {P : State → Prop} {f : Fin 4 → State → State} (h : ∀ p s, P s → P (f p s)) {s : State}
    (hs : P s) : P (forPorts f s) := by
  unfold forPorts
  generalize allPorts = l
  induction l generalizing s with
  | nil => exact hs
  | cons p l ih => exact ih (h p s hs)

/-- Where each slot's turn touches that slot alone among the slots, and its effect on the slot depends on nothing that
the other turns change (`P` says what stays), each slot has had its own turn. -/
theorem forSlots_slot {P : State → Prop} {f : Fin 16 → State → State} {g : Fin 16 → Slot → Slot}
    (hP : ∀ i s, P s → P (f i s)) (hne : ∀ i j s, P s → j ≠ i → (f i s).slot j = s.slot j)
    (heq : ∀ i s, P s → (f i s).slot i = g i (s.slot i)) {s : State} (hs : P s) (j : Fin 16) :
    (forSlots f s).slot j = g j (s.slot j) := by
  have key : ∀ (l : List (Fin 16)), l.Nodup → ∀ s, P s →
      (l.foldl (fun s i => f i s) s).slot j = if j ∈ l then g j (s.slot j) else s.slot j := by
    intro l
    induction l with
    | nil => intro _ s _; simp
    | cons i l ih =>
      intro hd s hs
      simp only [List.nodup_cons] at hd
      simp only [List.foldl_cons]
      rw [ih hd.2 (f i s) (hP i s hs)]
      by_cases hji : j = i
      · subst hji
        simp [hd.1, heq j s hs]
      · simp [hji, hne i j s hs hji]
  have := key allSlots (List.nodup_finRange 16) s hs
  rw [if_pos (show j ∈ allSlots from List.mem_finRange j)] at this
  exact this

/-- The same for the ports. -/
theorem forPorts_port {P : State → Prop} {f : Fin 4 → State → State} {g : Fin 4 → Port → Port}
    (hP : ∀ i s, P s → P (f i s)) (hne : ∀ i j s, P s → j ≠ i → (f i s).port j = s.port j)
    (heq : ∀ i s, P s → (f i s).port i = g i (s.port i)) {s : State} (hs : P s) (j : Fin 4) :
    (forPorts f s).port j = g j (s.port j) := by
  have key : ∀ (l : List (Fin 4)), l.Nodup → ∀ s, P s →
      (l.foldl (fun s i => f i s) s).port j = if j ∈ l then g j (s.port j) else s.port j := by
    intro l
    induction l with
    | nil => intro _ s _; simp
    | cons i l ih =>
      intro hd s hs
      simp only [List.nodup_cons] at hd
      simp only [List.foldl_cons]
      rw [ih hd.2 (f i s) (hP i s hs)]
      by_cases hji : j = i
      · subst hji
        simp [hd.1, heq j s hs]
      · simp [hji, hne i j s hs hji]
  have := key allPorts (List.nodup_finRange 4) s hs
  rw [if_pos (show j ∈ allPorts from List.mem_finRange j)] at this
  exact this

/-! ### The line store -/

/-- The allocation rule (R100), both outcomes. -/
theorem allocate_eq (p : Fin 4) (k : Nat) (s : State) :
    allocate p k s =
      if k = 0 ∨ (k ≤ s.freeList.length ∧ (s.port p).holding + k ≤ (s.port p).ceiling) then
        some (s.freeList.take k,
          { s.setPort p { s.port p with holding := (s.port p).holding + k } with freeList := s.freeList.drop k })
      else none := by
  unfold allocate
  by_cases h : k = 0
  · subst h
    have := congrArg State.ports (setPort_self s p)
    simp only [if_true, true_or, Nat.add_zero, List.take_zero, List.drop_zero]
    exact congrArg (fun v => some (([] : List Nat), { s with ports := v })) this.symm
  · simp [h]

/-- The two enqueue conditions in their order (R93). -/
theorem claim_eq (p : Fin 4) (k : Nat) (s : State) :
    claim p k s =
      if (s.port p).queued + (s.port p).reservations < 128 then
        if k = 0 ∨ (k ≤ s.freeList.length ∧ (s.port p).holding + k ≤ (s.port p).ceiling) then
          .ok (s.freeList.take k,
            { s.setPort p { s.port p with holding := (s.port p).holding + k } with freeList := s.freeList.drop k })
        else .error 3
      else .error 2 := by
  unfold claim
  rw [allocate_eq]
  by_cases h : k = 0 ∨ (k ≤ s.freeList.length ∧ (s.port p).holding + k ≤ (s.port p).ceiling) <;>
    simp [h, causeNoBlock, causeQueueFull]

/-- The block numbers of the records waiting on a port. -/
def Port.waitingBlocks (q : Port) : List Nat := q.queue.flatMap fun r => r.blocks.map (·.id)

/-- A flush (R102). -/
theorem flushQueue_eq (p : Fin 4) (s : State) :
    flushQueue p s =
      { s.setPort p { s.port p with
          holding := (s.port p).holding - (s.port p).waitingBlocks.length, queue := [] } with
        freeList := s.freeList ++ (s.port p).waitingBlocks } := by
  simp [flushQueue, returnBlocks, Port.waitingBlocks, State.setPort, State.port]

/-- Blocks fill in order: the numbers claimed, each once. -/
@[simp] theorem fillBlocks_ids (size : Nat) (ids : List Nat) (bytes : List Byte) :
    (fillBlocks size ids bytes).map (·.id) = ids := by
  induction ids generalizing bytes with
  | nil => rfl
  | cons a ids ih => simp [fillBlocks, ih]

/-- With blocks enough, the payload is in them whole and in order. -/
theorem fillBlocks_bytes (size : Nat) (ids : List Nat) (bytes : List Byte) (h : bytes.length ≤ size * ids.length) :
    (fillBlocks size ids bytes).flatMap (·.bytes) = bytes := by
  induction ids generalizing bytes with
  | nil => simpa [fillBlocks] using h
  | cons a ids ih =>
    simp only [fillBlocks, List.flatMap_cons]
    rw [ih, List.take_append_drop]
    simp only [List.length_drop, List.length_cons] at h ⊢
    have : size * (ids.length + 1) = size * ids.length + size := by ring
    omega

/-! ### Window frames ending -/

/-- The two bytes of a two-byte field, put together (R9). -/
theorem halfOf_bytes (d : Half) : d.extractLsb' 8 8 ++ d.extractLsb' 0 8 = d := by
  apply BitVec.eq_of_toNat_eq
  have := d.isLt
  simp only [BitVec.toNat_append, BitVec.extractLsb'_toNat, Nat.shiftRight_eq_div_pow, Nat.shiftLeft_eq]
  rw [Nat.mul_comm, ← Nat.two_pow_add_eq_or_of_lt (by omega)]
  omega

/-- One window frame that ends with its CLOSE (R77). -/
theorem endWindow_eq (code : CompletionCode) (i : Fin 16) (s : State) :
    endWindow code i s =
      match (s.slot i).context with
      | some c =>
        { (s.setPort c.port { s.port c.port with
              queue := (s.port c.port).queue ++ [c.closeRecord code]
              reservations := (s.port c.port).reservations - 1 }).setSlot i
            { s.slot i with state := settledState (s.governing i) (s.slot i).armCount } with
          notify := s.notify.takeAll (s.doneEvents code [(i, c)]) }
      | none => s := by
  unfold endWindow
  cases hs : (s.slot i).state with
  | active c =>
    have hc : (s.slot i).context = some c := by simp [Slot.context, hs]
    simp only [hc, releaseReservation, enqueue, raiseEvent_eq, settleSlot]
    simp [State.setSlot, State.setPort, State.slot, State.port, State.doneEvents, State.eventOf, State.governing,
      State.entry, NotifyUnit.setting, halfOf_bytes]
  | _ => simp [Slot.context, hs]

theorem WindowsEnd.governing {code : CompletionCode} {ends : List (Fin 16 × WindowContext)} {s u : State}
    (h : WindowsEnd code ends s u) (i : Fin 16) : u.governing i = s.governing i := by rw [h.rest]; rfl

/-- The events of window frames that end depend on the receiver's frame number and the class settings alone. -/
theorem doneEvents_congr {s u : State} (hr : u.receiver = s.receiver) (hs : u.notify.settings = s.notify.settings)
    (code : CompletionCode) (ends : List (Fin 16 × WindowContext)) : u.doneEvents code ends = s.doneEvents code ends := by
  simp [State.doneEvents, State.eventOf, hr, NotifyUnit.setting, hs]

/-- Window frames that end one group after another. -/
theorem WindowsEnd.trans {code : CompletionCode} {a b : List (Fin 16 × WindowContext)} {s v u : State}
    (h1 : WindowsEnd code a s v) (h2 : WindowsEnd code b v u) : WindowsEnd code (a ++ b) s u where
  slot i := by
    rw [h2.slot i, h1.governing i, h1.slot i, List.any_append]
    cases ha : a.any (fun x => x.1 == i) <;> cases hb : b.any (fun x => x.1 == i) <;> simp
  port p := by
    rw [h2.port p, h1.port p]
    simp [closesOn, List.append_assoc, Nat.sub_sub]
  notify := by
    have hr : v.receiver = s.receiver := by rw [h1.rest]
    have hs : v.notify.settings = s.notify.settings := by rw [h1.notify]; exact (takeAll_kept _ _).1
    rw [h2.notify, doneEvents_congr hr hs, h1.notify, ← takeAll_append]
    simp [State.doneEvents]
  rest := by
    rw [h2.rest, h1.rest]

theorem WindowsEnd.refl (code : CompletionCode) (s : State) : WindowsEnd code [] s s where
  slot i := by simp
  port p := by simp [closesOn]
  notify := rfl
  rest := rfl

/-- One slot's window frame, if it has one in progress. -/
theorem windowsEnd_endWindow (code : CompletionCode) (i : Fin 16) (s : State) :
    WindowsEnd code ((s.slot i).context.map fun c => (i, c)).toList s (endWindow code i s) := by
  rw [endWindow_eq]
  cases hc : (s.slot i).context with
  | none => simpa using WindowsEnd.refl code s
  | some c =>
    refine ⟨fun j => ?_, fun p => ?_, rfl, rfl⟩
    · change (State.setSlot _ _ _).slot j = _
      rw [slot_setSlot]
      by_cases h : j = i
      · subst h; simp
      · simp [h, Ne.symm h]
    · change (State.setPort _ _ _).port p = _
      rw [port_setPort]
      by_cases h : p = c.port
      · subst h; simp [closesOn]
      · simp [closesOn, h, Ne.symm h]

/-- Window frames of the chosen slots, ended in ascending slot index (R74, R78, R79). -/
theorem windowsEnd_forSlots (code : CompletionCode) (chosen : Fin 16 → Bool) (s : State) :
    WindowsEnd code (s.inProgress chosen) s
      (forSlots (fun i s => if chosen i then endWindow code i s else s) s) := by
  have key : ∀ (l : List (Fin 16)), l.Nodup → ∀ s : State,
      WindowsEnd code (l.filterMap fun i => if chosen i then (s.slot i).context.map fun c => (i, c) else none) s
        (l.foldl (fun s i => if chosen i then endWindow code i s else s) s) := by
    intro l
    induction l with
    | nil => intro _ s; exact WindowsEnd.refl code s
    | cons i l ih =>
      intro hd s
      simp only [List.nodup_cons] at hd
      simp only [List.foldl_cons]
      have h2 := ih hd.2 (if chosen i then endWindow code i s else s)
      have hsame : ∀ j ∈ l, ((if chosen i then endWindow code i s else s).slot j).context = (s.slot j).context := by
        intro j hj
        have hji : i ≠ j := by rintro rfl; exact hd.1 hj
        split
        · rw [(windowsEnd_endWindow code i s).slot j]
          cases (s.slot i).context <;> simp [hji]
        · rfl
      have hl : (l.filterMap fun j => if chosen j then
            (((if chosen i then endWindow code i s else s).slot j).context.map fun c => (j, c)) else none) =
          l.filterMap fun j => if chosen j then (s.slot j).context.map fun c => (j, c) else none := by
        apply List.filterMap_congr
        intro j hj
        rw [hsame j hj]
      rw [hl] at h2
      by_cases hc : chosen i
      · simp only [hc, if_true] at h2 ⊢
        have h1 := windowsEnd_endWindow code i s
        have := h1.trans h2
        cases hx : (s.slot i).context with
        | none => simpa [hx, hc] using this
        | some c => simpa [hx, hc] using this
      · simpa [hc] using h2
  exact key allSlots (List.nodup_finRange 16) s

/-! ### Taking a command (R137 to R139) -/

/-- The hand-off of a line to the interpreter changes the receiver alone (R26, R28, R37). -/
theorem handOff_eq (s : State) :
    handOff s =
      { s with receiver :=
        { s.receiver with
          state := if s.receiver.state = .hunting then .betweenFrames else s.receiver.state
          silenceTimer := if s.receiver.state = .inFrame then .running s.receiver.silenceTimeout
            else s.receiver.silenceTimer } } := by
  rcases s with ⟨_, ⟨st, _, _, _, _, _, _, _, _, _, _⟩, _⟩
  cases st <;> rfl

/-- Leaving MANAGEMENT_SILENT changes the notification unit and the fault line's copy alone (R134, R164). -/
theorem leaveSilent_eq (s : State) :
    leaveSilent s =
      { s with
        notify := if s.notify.silent then
          { s.notify with silent := false, sent := s.notify.sent.map (·.wake s.notify.retryInterval) } else s.notify
        fault := if s.notify.silent then { s.fault with silent := false } else s.fault } := by
  unfold leaveSilent
  split <;> rfl

/-- A command handed on while a place is free is taken, and answered as its owner says (R139, R140, R153). -/
theorem takeCommand_taken {s : State} (h : s.CanTake) (tag code : Byte) (action : Option (State → State × Reply)) :
    takeCommand tag code action s = some
      (match action with
      | none => placeResponse ⟨tag, code, .plain .badLength⟩ s.taken
      | some owner => placeResponse ⟨tag, code, (owner s.taken).2⟩ (owner s.taken).1) := by
  have ho : (handOff s).outstanding = s.outstanding := by rw [handOff_eq]; rfl
  have hf : (handOff s).responseQueueFull = false := by
    simp only [State.responseQueueFull, ho, decide_eq_false_iff_not, not_le]
    exact h.2
  unfold takeCommand
  simp only [h.1, if_false, hf]
  rfl

/-- A command handed on while all sixteen places are occupied is lost (R138). -/
theorem takeCommand_full {s : State} (hr : s.receiver.state ≠ .noSignal) (h : 16 ≤ s.outstanding.length)
    (tag code : Byte) (action : Option (State → State × Reply)) :
    takeCommand tag code action s = some (raiseEvent .commandLost .none 2 tag (handOff s)) := by
  have ho : (handOff s).outstanding = s.outstanding := by rw [handOff_eq]; rfl
  have hf : (handOff s).responseQueueFull = true := by simp [State.responseQueueFull, ho, h]
  unfold takeCommand
  simp [hr, hf]

@[simp] theorem taken_port (s : State) (p : Fin 4) : s.taken.port p = s.port p := by
  simp only [State.taken, leaveSilent_eq, handOff_eq]; rfl
@[simp] theorem taken_slot (s : State) (i : Fin 16) : s.taken.slot i = s.slot i := by
  simp only [State.taken, leaveSilent_eq, handOff_eq]; rfl
@[simp] theorem taken_entry (s : State) (b : Fin 4) (i : Fin 16) : s.taken.entry b i = s.entry b i := by
  simp only [State.taken, leaveSilent_eq, handOff_eq]; rfl
@[simp] theorem taken_governing (s : State) (i : Fin 16) : s.taken.governing i = s.governing i := by
  simp only [State.taken, leaveSilent_eq, handOff_eq]; rfl
@[simp] theorem taken_line (s : State) (n : Fin 4) : s.taken.line n = s.line n := by
  simp only [State.taken, leaveSilent_eq, handOff_eq]; rfl
@[simp] theorem taken_banks (s : State) : s.taken.banks = s.banks := by
  simp only [State.taken, leaveSilent_eq, handOff_eq]
@[simp] theorem taken_activeBank (s : State) : s.taken.activeBank = s.activeBank := by
  simp only [State.taken, leaveSilent_eq, handOff_eq]
@[simp] theorem taken_pendingBank (s : State) : s.taken.pendingBank = s.pendingBank := by
  simp only [State.taken, leaveSilent_eq, handOff_eq]
@[simp] theorem taken_mgmt (s : State) : s.taken.mgmt = s.mgmt := by
  simp only [State.taken, leaveSilent_eq, handOff_eq]
@[simp] theorem taken_portEnabled (s : State) : s.taken.portEnabled = s.portEnabled := by
  funext p; simp [State.portEnabled]

end Sys2Proof.Machine
end

