-- ==== Sys2Proof/Laws/Windows.lean ====
section
/-! SUPPORT. What the slots' turns leave alone as an ingress frame goes by, the abort of a frame, and the operations of a
port's stall and recovery, said once. -/

namespace Sys2Proof.Machine

/-! ### The part of the state that window frames touch -/

/-- From s to u only slots, ports, the free list and the queues of responses and notifications have moved, and no class
setting. -/
structure MovesWindows (s u : State) : Prop where
  rest : u =
    { s with slots := u.slots, ports := u.ports, freeList := u.freeList, responses := u.responses, notify := u.notify }
  settings : u.notify.settings = s.notify.settings

namespace MovesWindows

variable {s v u : State} (h : MovesWindows s u)
include h

theorem receiver : u.receiver = s.receiver := by rw [h.rest]
theorem banks : u.banks = s.banks := by rw [h.rest]
theorem activeBank : u.activeBank = s.activeBank := by rw [h.rest]
theorem pendingBank : u.pendingBank = s.pendingBank := by rw [h.rest]
theorem mgmt : u.mgmt = s.mgmt := by rw [h.rest]
theorem lines : u.lines = s.lines := by rw [h.rest]
theorem fault : u.fault = s.fault := by rw [h.rest]
theorem governing (i : Fin 16) : u.governing i = s.governing i := by rw [h.rest]; rfl

/-- An event raised after is the event raised before. -/
theorem eventOf (c : EventClass) (sub : Subject) (hi lo : Byte) : u.eventOf c sub hi lo = s.eventOf c sub hi lo := by
  simp only [State.eventOf, NotifyUnit.setting, h.settings, h.receiver]

theorem trans (h' : MovesWindows v s) : MovesWindows v u where
  rest := by rw [h.rest, h'.rest]
  settings := h.settings.trans h'.settings

end MovesWindows

theorem MovesWindows.refl (s : State) : MovesWindows s s := ⟨rfl, rfl⟩

theorem movesWindows_setSlot (i : Fin 16) (t : Slot) (s : State) : MovesWindows s (s.setSlot i t) := ⟨rfl, rfl⟩

theorem movesWindows_setPort (p : Fin 4) (q : Port) (s : State) : MovesWindows s (s.setPort p q) := ⟨rfl, rfl⟩

theorem movesWindows_raiseEvent (c : EventClass) (sub : Subject) (hi lo : Byte) (s : State) :
    MovesWindows s (raiseEvent c sub hi lo s) := by
  rw [raiseEvent_eq]
  exact ⟨rfl, (takeAll_kept _ _).1⟩

theorem WindowsEnd.moves {code : CompletionCode} {ends : List (Fin 16 × WindowContext)} {s u : State}
    (h : WindowsEnd code ends s u) : MovesWindows s u where
  rest := by rw [h.rest]
  settings := by rw [h.notify]; exact (takeAll_kept _ _).1

theorem movesWindows_endWindow (code : CompletionCode) (i : Fin 16) (s : State) : MovesWindows s (endWindow code i s) :=
  (windowsEnd_endWindow code i s).moves

theorem movesWindows_updateContext (i : Fin 16) (f : WindowContext → WindowContext) (s : State) :
    MovesWindows s (updateContext i f s) := by
  unfold updateContext
  split
  · exact movesWindows_setSlot ..
  · exact .refl s

/-- The ports settle (R111). -/
theorem movesWindows_settle (s : State) : MovesWindows s (settle s) where
  rest := by rw [(stepEnds_settle s).rest]
  settings := by
    rw [(stepEnds_settle s).notify]
    split
    · rename_i o _; cases o <;> rfl
    · rfl

theorem movesWindows_endTest (r : Nat) (i : Fin 16) (s : State) : MovesWindows s (endTest r i s) := by
  unfold endTest
  split
  · split
    · exact movesWindows_endWindow ..
    · exact .refl s
  · exact .refl s

theorem movesWindows_missSlot (r : Nat) (i : Fin 16) (s : State) : MovesWindows s (missSlot r i s) := by
  unfold missSlot
  split
  · refine (movesWindows_endTest ..).trans ?_
    split
    · exact movesWindows_updateContext ..
    · exact .refl s
  · exact .refl s

theorem movesWindows_dropRow (cause : Byte) (i : Fin 16) (p : Fin 4) (s : State) :
    MovesWindows s (dropRow cause i p s) :=
  (movesWindows_setPort ..).trans ((movesWindows_raiseEvent ..).trans (movesWindows_updateContext ..))

/-- A claim that is granted moves a port and the free list alone (R93, R100). -/
theorem movesWindows_claim {p : Fin 4} {k : Nat} {s u : State} {ids : List Nat} (h : claim p k s = .ok (ids, u)) :
    MovesWindows s u := by
  rw [claim_eq] at h
  split at h
  · split at h
    · cases h; exact ⟨rfl, rfl⟩
    · cases h
  · cases h

theorem movesWindows_cutSegment (depth : BitVec 2) (r : Nat) (samples : List Half) (i : Fin 16) (c : WindowContext)
    (s : State) : MovesWindows s (cutSegment depth r samples i c s) := by
  unfold cutSegment
  dsimp only
  have h1 : MovesWindows s
      (if (c.segment samples).length < c.outputWidth then updateContext i (fun c => { c with clipped := true }) s else s) := by
    split
    · exact movesWindows_updateContext ..
    · exact .refl s
  split
  · exact (movesWindows_dropRow ..).trans h1
  · rename_i hc
    exact (movesWindows_updateContext ..).trans ((movesWindows_setPort ..).trans ((movesWindows_claim hc).trans h1))

theorem movesWindows_takeSlot (depth : BitVec 2) (r : Nat) (samples : List Half) (i : Fin 16) (s : State) :
    MovesWindows s (takeSlot depth r samples i s) := by
  unfold takeSlot
  split
  · refine (movesWindows_endTest ..).trans ?_
    split
    · exact (movesWindows_settle _).trans (movesWindows_cutSegment ..)
    · exact .refl s
  · exact .refl s

theorem movesWindows_copyInfo (payload : List Byte) (i : Fin 16) (s : State) : MovesWindows s (copyInfo payload i s) := by
  unfold copyInfo
  split
  · split
    · split
      · exact movesWindows_raiseEvent ..
      · rename_i hc; exact (movesWindows_setPort ..).trans (movesWindows_claim hc)
    · exact .refl s
  · exact .refl s

theorem movesWindows_askOpening (i : Fin 16) (s : State) : MovesWindows s (askOpening i s) := by
  unfold askOpening
  split
  · dsimp only
    split
    · exact (movesWindows_raiseEvent ..).trans (movesWindows_setSlot ..)
    · split
      · exact (movesWindows_setSlot ..).trans (movesWindows_setPort ..)
      · exact (movesWindows_raiseEvent ..).trans (movesWindows_setSlot ..)
  · exact .refl s

theorem movesWindows_endSilently (i : Fin 16) (s : State) : MovesWindows s (endSilently i s) := by
  unfold endSilently
  split
  · exact (movesWindows_setSlot ..).trans (movesWindows_setPort ..)
  · exact .refl s

/-- Slot after slot. -/
theorem movesWindows_forSlots {f : Fin 16 → State → State} (h : ∀ i s, MovesWindows s (f i s)) (s : State) :
    MovesWindows s (forSlots f s) :=
  forSlots_invariant (P := MovesWindows s) (fun i v hv => (h i v).trans hv) (.refl s)

theorem movesWindows_missRow (r : Nat) (s : State) : MovesWindows s (missRow r s) := by
  unfold missRow
  exact movesWindows_forSlots (movesWindows_missSlot r) s

/-- Row after row. -/
theorem movesWindows_missRows (first count : Nat) (s : State) : MovesWindows s (missRows first count s) := by
  unfold missRows
  generalize List.range' first count = l
  induction l generalizing s with
  | nil => exact .refl s
  | cons r l ih => rw [List.foldl_cons]; exact (ih _).trans (movesWindows_missRow r s)

/-! ### The turns of the slots in one row (R74, R96) -/

/-- With no event named for a turn, the ports alone settle before it. -/
theorem beforeTurn_nil (i : Fin 16) (s : State) : beforeTurn [] i s = settle s := by
  simp only [beforeTurn, List.filter_nil, List.foldl_nil]

/-- An event named last for a turn comes about last before it. -/
theorem beforeTurn_append (during : List (Fin 16 × RowEvent)) (j i : Fin 16) (e : RowEvent) (s : State) :
    beforeTurn (during ++ [(j, e)]) i s = if j = i then meanwhile e (beforeTurn during i s) else beforeTurn during i s := by
  unfold beforeTurn
  by_cases h : j = i <;> simp [h]

/-- What the settling of the ports and every event inside a row keep is kept before each turn. -/
theorem beforeTurn_invariant {P : State → Prop} (during : List (Fin 16 × RowEvent)) (i : Fin 16)
    (hsettle : ∀ v, P v → P (settle v)) (hevent : ∀ e v, (∃ j, (j, e) ∈ during) → P v → P (meanwhile e v)) {s : State}
    (hs : P s) : P (beforeTurn during i s) := by
  unfold beforeTurn
  have hl : ∀ x ∈ during.filter (fun x => x.1 == i), x ∈ during := fun x hx => (List.mem_filter.mp hx).1
  have hs := hsettle s hs
  generalize during.filter (fun x => x.1 == i) = l at hl
  generalize settle s = v at hs
  induction l generalizing v with
  | nil => exact hs
  | cons x l ih =>
    exact ih (fun y hy => hl y (List.mem_cons_of_mem _ hy)) _ (hevent x.2 v ⟨x.1, hl x (List.mem_cons_self ..)⟩ hs)

/-- What every turn, the settling of the ports and every event inside a row keep is kept by the row. -/
theorem forTurns_invariant {P : State → Prop} (during : List (Fin 16 × RowEvent)) {turn : Fin 16 → State → State}
    (hturn : ∀ i v, P v → P (turn i v)) (hsettle : ∀ v, P v → P (settle v))
    (hevent : ∀ e v, (∃ j, (j, e) ∈ during) → P v → P (meanwhile e v)) {s : State} (hs : P s) :
    P (forTurns during turn s) := by
  unfold forTurns
  exact forSlots_invariant (fun i v hv => hturn i _ (beforeTurn_invariant during i hsettle hevent hv)) hs

theorem movesWindows_takeRow_nil (depth : BitVec 2) (r : Nat) (samples : List Half) (s : State) :
    MovesWindows s (takeRow depth r samples [] s) := by
  unfold takeRow
  exact forTurns_invariant (P := MovesWindows s) [] (fun i v hv => (movesWindows_takeSlot depth r samples i v).trans hv)
    (fun v hv => (movesWindows_settle v).trans hv) (fun _ _ h => absurd h.choose_spec (List.not_mem_nil)) (.refl s)

/-! ### The abort of a frame (R40, R79) -/

theorem frameAborts_abortFrame (cause : AbortCause) (s : State) : FrameAborts cause.code s (abortFrame cause s) := by
  have hw := windowsEnd_forSlots .aborted (fun _ => true) (s.setReceiver s.receiver.abort)
  simp only [if_true] at hw
  refine ⟨_, hw, ?_⟩
  have he := hw.moves.eventOf .frameAborted .none cause.code 0
  simp only [abortFrame, raiseEvent_eq, announceFrameAbort]
  rw [show forSlots (endWindow .aborted) (s.setReceiver s.receiver.abort) =
    forSlots (fun i s => endWindow .aborted i s) (s.setReceiver s.receiver.abort) from rfl, he]
  rfl

/-- What an abort of the frame changes outside the window frames: timer and counter (R40). -/
theorem abortFrame_receiver (cause : AbortCause) (s : State) : (abortFrame cause s).receiver = s.receiver.abort := by
  unfold abortFrame announceFrameAbort
  rw [(movesWindows_raiseEvent ..).receiver, (movesWindows_forSlots (movesWindows_endWindow .aborted) _).receiver]
  rfl

/-! ### A window frame that ends without its CLOSE (R80, R88) -/

theorem endSilently_eq (i : Fin 16) (s : State) :
    endSilently i s =
      match (s.slot i).context with
      | some c =>
        (s.setPort c.port { s.port c.port with reservations := (s.port c.port).reservations - 1 }).setSlot i
          { s.slot i with state := settledState (s.governing i) (s.slot i).armCount }
      | none => s := by
  unfold endSilently
  cases hs : (s.slot i).state with
  | active c =>
    have hc : (s.slot i).context = some c := by simp [Slot.context, hs]
    simp only [hc]
    rfl
  | _ => simp [Slot.context, hs]

/-! ### One port settled in the middle of a step (R118) -/

/-- What the settling of one port leaves alone, besides the other ports. -/
theorem settlePort_kept (p : Fin 4) (s : State) :
    (settlePort p s).receiver = s.receiver ∧ (settlePort p s).fault = s.fault ∧ (settlePort p s).mgmt = s.mgmt ∧
    (settlePort p s).notify.settings = s.notify.settings ∧
    ((settlePort p s).port p).stallOutstanding = (s.port p).stallOutstanding := by
  refine ⟨by rw [settlePort_eq]; rfl, by rw [settlePort_eq]; rfl, settlePort_mgmt p s, ?_, ?_⟩
  · rw [settlePort_eq]
    show (s.notifyAfter p).settings = _
    unfold State.notifyAfter
    split
    · rename_i o _; cases o <;> rfl
    · rfl
  · rw [settlePort_port, if_pos rfl]
    exact (portSending_kept s p).2.2.2.2.2.2.1

end Sys2Proof.Machine
end

