-- ==== Sys2Proof/Tests/Slice0.lean ====
section
/-! SUPPORT. Tests with expected results taken from the manual (the source is named in each docstring), the smoke test of
WellFormed, and for every statement with hypotheses a state and operands that meet them, clause by clause. -/

namespace Sys2Proof.Tests

open Sys2Proof.Machine

set_option Elab.async false

/-! ### Small states -/

/-- A port with nothing to do and ready high. -/
def restingPort : Port := { Port.reset with ready := true, state := .idle }

/-- Locked, between frames, every consumer ready, nothing waiting. -/
def quiet : State :=
  { State.reset with
    laneLocked := true
    receiver := { Receiver.reset with state := .betweenFrames }
    ports := Vector.replicate 4 restingPort
    notify := { NotifyUnit.reset with pending := [] } }

/-- Inside an ingress frame of depth 12. -/
def framed : State :=
  { quiet with receiver := { Receiver.reset with state := .inFrame, depth := 2, silenceTimer := .running 40 } }

/-- The window of Table 1.9: height 9, width 100, row step 2, column step 4, top row 40, left column 20, on stream id 5,
here of port 1. -/
def window : Entry :=
  { Entry.reset with
    enable := true, topRow := 40, height := 9, leftColumn := 20, width := 100, rowStep := .two, columnStep := .four
    port := 1, stream := 5, carryInfo := true }

/-- The context of its window frame 0012h. -/
def context : WindowContext := window.openContext 0x0012

/-- Slot 3 cutting the window frame 0012h (Table 1.9). -/
def cutting : State :=
  let s := framed.setEntry 0 3 window
  let s := s.setSlot 3 { Slot.reset with state := .active context, frameNumber := 0x0013, opened := 1 }
  s.setPort 1 { restingPort with reservations := 1 }

/-- An ARMED entry with policy RESTART, hold-off 0 and trigger source TRG2 on port 2 (entry 4 of Table 10.2). -/
def armed : Entry :=
  { Entry.reset with
    enable := true, mode := .armed, policy := .restart, height := 480, width := 640, port := 2, stream := 5
    trigger := some 2 }

/-- Slot 4 UNARMED under that entry, in blanking. -/
def unarmed : State := (quiet.setEntry 0 4 armed).setSlot 4 { Slot.reset with state := .unarmed }

/-- A record that holds one block. -/
def record : Record := ⟨5, .infoRecord 1 [⟨7, [0xaa]⟩]⟩

/-- A record that holds none. -/
def closing : Record := ⟨5, .closeRecord 0x0012 .complete false false 5⟩

/-- Port 1 HELD with one record and its hold timer running. -/
def held : State :=
  { quiet with
    ports := quiet.ports.set 1
      { restingPort with state := .held, ready := false, queue := [record], holding := 1, holdTimer := .running 100 }
    freeList := List.range' 0 7 ++ List.range' 8 1016 }

/-- Port p STALLED with a stall outstanding, as its consumer left it, and a set of streams open. -/
def stalledPort (openSet : BitVec 16) : Port :=
  { restingPort with state := .stalled, ready := false, openSet := openSet, stallOutstanding := true }

/-- Port 1 RECOVERING with its ready low and its hold timer running. -/
def recovering : State :=
  quiet.setPort 1 { stalledPort 0x0028 with state := .recovering, holdTimer := .running 100 }

/-- An URGENT entry sent once as 21, its retry timer running (entry L of Table 10.6). -/
def sent : SentEntry := ⟨⟨.commandLost, .none, .urgent, 1, 0, 0⟩, 21, 0, 0, false, .running 20, false⟩

/-- A ROUTINE entry sent before it as 20 (entry W of Table 10.6). -/
def older : SentEntry := ⟨⟨.windowSkipped, .slot 0, .routine, 1, 0, 0⟩, 20, 0, 0, false, .running 20, false⟩

/-- The notification queue of Table 10.6. -/
def unacknowledged : State := { quiet with notify := { quiet.notify with sent := [older, sent], nextSequence := 22 } }

/-- A pending LINE_FAULT (entry F of Table 10.6). -/
def waiting : PendingEntry := ⟨.lineFault, .none, .routine, 1, 0x0200, 0⟩

/-- All sixteen response places occupied. -/
def full : State := { quiet with responses := List.replicate 16 ⟨0, 0x01, .done⟩ }

/-- What a command leaves. -/
def after (c : Instr) (s : State) : State :=
  match exec c s with
  | .next t => t
  | _ => s

/-- The result of the newest response in a queue that grew, or of the line that carries it. -/
def answer (s : State) : Option Reply :=
  match s.responses.getLast?, (s.port s.mgmt).transmission with
  | some r, _ => some r.reply
  | none, some ⟨.response r, _⟩ => some r.reply
  | none, _ => none

/-! ### WellFormed: each check refuses an ill-formed term -/

/-- Test 4 of Table 1.4: a count above 4096 is a header fault, not a trailer failure. -/
theorem test_illFormed_trailerFailure : (Instr.trailerFailure ⟨.pixelKind, 0, 0, 4097, 0⟩).wellFormed = false := by decide
theorem test_illFormed_open : (Instr.ingressOpen 0 (List.replicate 4097 0)).wellFormed = false := by decide +kernel
theorem test_illFormed_pixel_count : (Instr.ingressPixel 2 0 ⟨List.replicate 4097 0, []⟩).wellFormed = false := by
  decide +kernel
/-- At depth 8 a sample has one byte (R6). -/
theorem test_illFormed_pixel_sample : (Instr.ingressPixel 0 0 ⟨[0x100], []⟩).wellFormed = false := by decide
theorem test_illFormed_info : (Instr.ingressInfo ⟨List.replicate 4097 0, []⟩).wellFormed = false := by
  decide +kernel
theorem test_illFormed_close : (Instr.ingressClose (List.replicate 4097 0)).wellFormed = false := by decide +kernel
/-- Channel 0 is the command channel (R28). -/
theorem test_illFormed_stray : (Instr.strayControlLine 0 []).wellFormed = false := by decide
theorem test_illFormed_stray_length : (Instr.strayControlLine 1 (List.replicate 4097 0)).wellFormed = false := by
  decide +kernel
/-- A payload of two bytes has a code (R138). -/
theorem test_illFormed_short : (Instr.shortCommandLine [1, 2]).wellFormed = false := by decide
/-- 70h is READ_STATUS (Table 1.11). -/
theorem test_illFormed_unknown : (Instr.unknownCommand 0 0x70 []).wellFormed = false := by decide
theorem test_illFormed_args : (Instr.echo 0 (List.replicate 4095 0)).wellFormed = false := by decide +kernel

/-! ### The line protocol -/

/-- Table 1.19: the header of ingress PIXEL row 37, depth 12, 1024 samples. -/
theorem test_header_row37 :
    headerBytes ⟨.pixelKind, 0, 2, 1024, 37⟩ = [0x21, 0x10, 0x00, 0x09, 0x40, 0x87] := by decide +kernel

/-- R7: the trailers given for checking an implementation, and FFFFh for an empty payload. -/
theorem test_trailers :
    trailerOf [] = 0xffff ∧ trailerOf [0x00] = 0xe1f0 ∧
    trailerOf [0x31, 0x32, 0x33, 0x34, 0x35, 0x36, 0x37, 0x38, 0x39] = 0x29b1 := by decide +kernel

/-- Section 1.12: the header of Table 1.19 with no payload fails test 5, and is a trailer failure of row 37, depth 12. -/
theorem test_judge_row37_short :
    decodeLine [0x21, 0x10, 0x00, 0x09, 0x40, 0x87] = .trailerFailure ⟨.pixelKind, 0, 2, 1024, 37⟩ := by decide +kernel

/-- Section 1.12: the same bytes with check 78h are a header fault. -/
theorem test_judge_row37_badCheck : decodeLine [0x21, 0x10, 0x00, 0x09, 0x40, 0x78] = .headerFault := by decide +kernel

/-- Line 1 of Table 1.5, written out: kind 000, stream 0000, depth 10, count 2, row 0; payload 0207h. Header bits
000 0000 1, 0 0000000, 000010 00, 0..., check the complement of 01h ^ 08h. -/
theorem test_decode_open :
    decodeLine ([0x01, 0x00, 0x08, 0x00, 0x00, 0xf6, 0x02, 0x07] ++ halfBytes (trailerOf [0x02, 0x07])) =
      .ingressOpen 2 [0x02, 0x07] := by decide +kernel

/-- Line 485 of Table 1.5, SELECT_BANK 1 with tag 0Ah: kind 100, stream 0, depth 0, count 3. Header bytes 80h, 00h, 0Ch,
00h, 00h, check the complement of 8Ch. -/
theorem test_decode_selectBank :
    decodeLine ([0x80, 0x00, 0x0c, 0x00, 0x00, 0x73, 0x0a, 0x12, 0x01] ++ halfBytes (trailerOf [0x0a, 0x12, 0x01])) =
      .selectBank 0x0a [0x01] := by decide +kernel

/-- A PIXEL line of row 0 at depth 12 with one sample, bits above the depth kept for the receiver: kind 001, depth 10,
count 1; header bytes 21h, 00h, 04h, 00h, 00h, check the complement of 25h. -/
theorem test_decode_pixel :
    decodeLine ([0x21, 0x00, 0x04, 0x00, 0x00, 0xda, 0xf1, 0x23] ++ halfBytes (trailerOf [0xf1, 0x23])) =
      .ingressPixel 2 0 ⟨[0xf123], []⟩ := by decide +kernel

/-- An INFO line of one byte: kind 010, count 1; header bytes 40h, 00h, 04h, 00h, 00h, check the complement of 44h. -/
theorem test_decode_info :
    decodeLine ([0x40, 0x00, 0x04, 0x00, 0x00, 0xbb, 0x5a] ++ halfBytes (trailerOf [0x5a])) = .ingressInfo ⟨[0x5a], []⟩ :=
  by decide +kernel

/-- Line 483 of Table 1.5: a CLOSE with an empty payload, kind 011; header byte 0 60h, check 9Fh, trailer FFFFh. -/
theorem test_decode_close : decodeLine [0x60, 0x00, 0x00, 0x00, 0x00, 0x9f, 0xff, 0xff] = .ingressClose [] := by decide +kernel

/-- A CONTROL line on channel 3: kind 100, stream 0011; header byte 0 86h, check 79h. -/
theorem test_decode_stray :
    decodeLine [0x86, 0x00, 0x00, 0x00, 0x00, 0x79, 0xff, 0xff] = .strayControlLine 3 [] := by decide +kernel

/-- R3: kind codes 5, 6 and 7 are illegal. Header byte 0 A0h, its check the complement, 5Fh. -/
theorem test_decode_illegalKind : decodeLine [0xa0, 0x00, 0x00, 0x00, 0x00, 0x5f, 0xff, 0xff] = .headerFault := by decide +kernel

/-- No row of the table has bits. -/
theorem test_decodeTableWord : decodeTableWord 0 0 = none ∧ State.reset.withFetchWord 0 0 = State.reset := by
  decide +kernel

/-- Line 7 of Table 1.9: CLOSE of stream id 5, window frame 0012h, COMPLETE, flags 00h, rows delivered 5. -/
theorem test_close_line :
    (EgressLine.departure closing).header = ⟨.closeKind, 5, 0, 6, 0⟩ ∧
    (EgressLine.departure closing).payload = [0x00, 0x12, 0x00, 0x00, 0x00, 0x05] := by decide +kernel

/-! ### Window geometry -/

/-- Section 1.8: expected rows 5, covered rows 40, 42, 44, 46 and 48, output width 25. -/
theorem test_geometry :
    context.expectedRows = 5 ∧ context.outputWidth = 25 ∧ context.lastCoveredRow = 48 ∧
    (List.range 60).filter context.covers = [40, 42, 44, 46, 48] := by decide +kernel

/-- Section 1.8: the last column taken of a row of 640 samples is 116. -/
theorem test_segment :
    let row : List Half := (List.range 640).map (BitVec.ofNat 16)
    (context.segment row).length = 25 ∧ (context.segment row).head? = some 20 ∧
    (context.segment row).getLast? = some 116 := by decide +kernel

/-- Table 10.2, entry 1: record bytes 0, 9, 10 and 11 are 80h, 12h, 50h and 00h. -/
theorem test_record_entry1 :
    ({ Entry.reset with
      enable := true, topRow := 200, height := 80, leftColumn := 160, width := 320, rowStep := .two, columnStep := .two
      port := 1, stream := 2 } : Entry).record =
      [0x80, 0x00, 0xc8, 0x00, 0x50, 0x00, 0xa0, 0x01, 0x40, 0x12, 0x50, 0x00] := by decide +kernel

/-- Table 10.2, entry 4: record bytes 0, 9, 10 and 11 are E0h, 25h, 00h and 60h. -/
theorem test_record_entry4 :
    rawRecord [0xe0, 0, 0, 0x01, 0xe0, 0, 0, 0x02, 0x80, 0x25, 0x00, 0x60] =
      some ⟨0xe0, 0, 480, 0, 640, 0x25, 0x00, 0x60⟩ ∧
    entryOfRecord ⟨0xe0, 0, 480, 0, 640, 0x25, 0x00, 0x60⟩ = .ok armed := by decide +kernel

/-! ### The receiver's commands -/

/-- Table 10.1 step 1: with RDY0 high, RESTARTED is in transmission as sequence 0 when hard reset ends. -/
theorem test_hardReset_sends :
    ((after (.hardReset false false) quiet).port 0).transmission =
      some ⟨.notification ⟨0, PendingEntry.hardReset, 0⟩, false⟩ ∧
    (after (.hardReset false false) quiet).notify.nextSequence = 1 := by decide +kernel

/-- R121: MSEL1 high and MSEL0 low choose port 2. -/
theorem test_hardReset_mgmt : (after (.hardReset true false) quiet).mgmt = 2 := by decide +kernel

/-- Table 10.1 step 2: lock gained takes the receiver to HUNTING. -/
theorem test_lockGained : (after .lockGained State.reset).receiver.state = .hunting := by decide +kernel

/-- R22, R40: lock lost inside a frame aborts it with cause SIGNAL_LOST and reports SIGNAL_CHANGE after it; the first is
already in transmission. -/
theorem test_lockLost :
    (after .lockLost framed).receiver.state = .noSignal ∧
    (after .lockLost framed).notify.pending.map (·.cls) = [.frameAborted] ∧
    (after .lockLost framed).notify.sent.map (·.base.cls) = [.signalChange] := by decide +kernel

/-- R23: a header fault between frames is counted and takes the receiver to HUNTING. -/
theorem test_headerFault :
    (after .headerFault quiet).receiver.state = .hunting ∧ (after .headerFault quiet).receiver.lineFaults = 1 := by
  decide +kernel

/-- R25: with row 39 expected, a failed PIXEL line of row 40 makes rows 39 and 40 missed; a window that covers row 40 is
DEFICIENT. -/
theorem test_trailerFailure :
    let s := { cutting with receiver := { cutting.receiver with expectedRow := 39 } }
    ((after (.trailerFailure ⟨.pixelKind, 0, 2, 640, 40⟩) s).slot 3).context.map (·.deficient) = some true ∧
    (after (.trailerFailure ⟨.pixelKind, 0, 2, 640, 40⟩) s).receiver.expectedRow = 41 := by decide +kernel

/-- Line 1 of Table 1.9: the OPEN of window frame 0012h cut from frame 0207h goes into transmission at once. -/
theorem test_open :
    let s := (quiet.setEntry 0 3 window).setSlot 3 { Slot.reset with state := .ready, frameNumber := 0x0012 }
    ((after (.ingressOpen 2 [0x02, 0x07]) s).port 1).transmission =
      some ⟨.departure ⟨5, .openRecord 2 0x0012 0x0207 25 5 3 0⟩, false⟩ := by decide +kernel

/-- R10, R9: an OPEN with one payload byte has 00h for the missing one. -/
theorem test_open_short : (after (.ingressOpen 0 [0x02]) quiet).receiver.frameNumber = 0x0200 := by decide +kernel

/-- Line 2 of Table 1.9: row 40 gives output row 0 with 25 samples, columns 20, 24, ...; R33: a row below the expected row
is discarded, LINE_FAULT detail 0501h. -/
theorem test_pixel :
    let row : List Half := (List.range 120).map (BitVec.ofNat 16)
    let s := { cutting with receiver := { cutting.receiver with expectedRow := 40 } }
    ((after (.ingressPixel 2 40 ⟨row, []⟩) s).port 1).transmission.map (·.line.header) = some ⟨.pixelKind, 5, 2, 25, 0⟩ ∧
    (((after (.ingressPixel 2 40 ⟨row, []⟩) s).port 1).transmission.map fun t => t.line.payload.take 4) =
      some [0x00, 0x14, 0x00, 0x18] ∧
    (after (.ingressPixel 2 0 ⟨[], []⟩) s).notify.sent.map (·.base.detail) = [0x0501] := by decide +kernel

/-- Port 1 of section 5.7 as row 300 comes: ceiling 24, holding 20, 122 records queued, a PIXEL record of 4 blocks in
transmission; slots 2, 6 and 11 cut 128, 256 and 64 samples; 40 blocks are free. -/
def claiming : State :=
  let cut := fun w : Nat => { Slot.reset with
    state := .active { context with
      topRow := 300, leftColumn := 0, width := w, columnStep := .one, outputWidth := w, lastCoveredRow := 308 } }
  let s := ((framed.setSlot 2 (cut 128)).setSlot 6 (cut 256)).setSlot 11 (cut 64)
  let sending : Transmission :=
    ⟨.departure ⟨5, .pixelRecord 2 0 256 ((List.range' 1000 4).map fun i => ⟨i, []⟩)⟩, false⟩
  { s.setPort 1 { restingPort with
      state := .sending, transmission := some sending, queue := List.replicate 122 closing, ceiling := 24
      holding := 20, reservations := 3 } with
    freeList := List.range' 0 40, receiver := { s.receiver with expectedRow := 300 } }

/-- Holding and free after row 300, rows delivered of slots 2, 6 and 11, and rows dropped. -/
def claims (s : State) (during : List (Fin 16 × RowEvent)) : List Nat :=
  let t := after (.ingressPixel 2 300 ⟨List.replicate 256 0, during⟩) s
  let delivered := fun i : Fin 16 => ((t.slot i).context.map (·.rowsDelivered)).getD 0
  [(t.port 1).holding, t.freeList.length, delivered 2, delivered 6, delivered 11, (t.port 1).rowsDropped]

/-- Section 5.7: Table 5.3 with no completion during the row; with one between slot 2's and slot 6's turns, slot 6 finds
holding 18 and is enqueued. And R96, R111 and R115 with an empty queue and ceiling 5: slot 2's record begins at once on an
IDLE port, and its completion lets slot 6 in; on a HELD port slot 2's record starts the hold timer, and its expiry ends the
window frames of slots 6 and 11. -/
theorem test_pixel_claims :
    let resting := fun q : Port => claiming.setPort 1 { q with ceiling := 5, reservations := 3 }
    (claims claiming [] = [23, 37, 1, 0, 1, 1] ∧ claims claiming [(6, .completion 1)] = [23, 37, 1, 1, 1, 0]) ∧
    claims (resting restingPort) [] = [3, 37, 1, 0, 1, 1] ∧
    claims (resting restingPort) [(6, .completion 1)] = [5, 35, 1, 1, 1, 0] ∧
    claims (resting { restingPort with state := .held, ready := false }) [(6, .stall 1)] = [0, 40, 0, 0, 0, 0] := by
  decide +kernel

/-- R97: an INFO line is copied to a window that carries info, one block for 24 bytes. -/
theorem test_info :
    ((after (.ingressInfo ⟨List.replicate 24 0x11, []⟩) cutting).port 1).holding = 1 ∧
    (after (.ingressInfo ⟨List.replicate 24 0x11, []⟩) cutting).receiver.infoCount = 1 := by decide +kernel

/-- R78: a window frame in progress at frame end closes COMPLETE and CLIPPED. -/
theorem test_close :
    ((after (.ingressClose []) cutting).port 1).transmission =
      some ⟨.departure ⟨5, .closeRecord 0x0012 .complete true false 0⟩, false⟩ ∧
    ((after (.ingressClose []) cutting).slot 3).state = .ready := by decide +kernel

/-- R29: a stray CONTROL line, LINE_FAULT detail 0304h. -/
theorem test_stray :
    (after (.strayControlLine 1 []) quiet).receiver.strayLines = 1 ∧
    (after (.strayControlLine 1 []) quiet).notify.sent.map (·.base.detail) = [0x0304] := by decide +kernel

/-- R38: silence aborts the frame, FRAME_ABORTED detail 0300h. -/
theorem test_silence :
    (after .frameSilenceExpiry framed).receiver.state = .betweenFrames ∧
    (after .frameSilenceExpiry framed).notify.sent.map (·.base.detail) = [0x0300] := by decide +kernel

/-! ### Commands of the command summary -/

/-- R138: a line too short is COMMAND_LOST with detail 0300h. -/
theorem test_short : (after (.shortCommandLine [1]) quiet).notify.sent.map (·.base.detail) = [0x0300] := by decide +kernel

/-- R138: a command that finds no response place is COMMAND_LOST, cause 2, with its tag. -/
theorem test_full :
    (raiseEvent .commandLost .none 2 0x5a full).notify.pending.map (·.detail) = [0x025a] ∧
    (after (.echo 0x5a []) full).responses.length = 15 := by decide +kernel

/-- R139. -/
theorem test_unknown : answer (after (.unknownCommand 1 0x02 []) quiet) = some ⟨.unknownCommand, 0, []⟩ := by
  decide +kernel

/-- R145. -/
theorem test_echo : answer (after (.echo 1 [1, 2, 3]) quiet) = some ⟨.done, 0, [1, 2, 3]⟩ := by decide +kernel

/-- Table 10.3 step 4: entry 1 of bank 1 stored. -/
theorem test_writeEntry :
    ((after (.writeEntry 1 [1, 1, 0x80, 0, 200, 0, 80, 0, 160, 1, 64, 0x12, 0x50, 0]) quiet).entry 1 1).width = 320 ∧
    answer (after (.writeEntry 1 [1, 1, 0x80, 0, 200, 0, 80, 0, 160, 1, 64, 0x12, 0x50, 0]) quiet) = some .done := by
  decide +kernel

/-- R49: height 0 is refused as field 5 before a port of 4 is as field 8. -/
theorem test_writeEntry_refused :
    answer (after (.writeEntry 1 [1, 1, 0x80, 0, 0, 0, 0, 0, 0, 0, 1, 0x40, 0, 0]) quiet) =
      some ⟨.badArgument, 5, []⟩ := by decide +kernel

/-- R51. -/
theorem test_readEntry : answer (after (.readEntry 1 [4, 16]) quiet) = some ⟨.badArgument, 1, []⟩ := by decide +kernel

/-- Table 10.3 step 8. -/
theorem test_selectBank :
    (after (.selectBank 1 [1]) quiet).pendingBank = some 1 ∧
    answer (after (.selectBank 1 [0]) quiet) = some ⟨.noChange, 0, []⟩ := by decide +kernel

/-- R81: an ARM of slots 4 and 5, slot 5 OFF: slot 4 READY with the count, slot 5 in the data. -/
theorem test_arm :
    ((after (.arm 1 [0x00, 0x30, 2]) unarmed).slot 4) = { Slot.reset with state := .ready, armCount := 2 } ∧
    answer (after (.arm 1 [0x00, 0x30, 2]) unarmed) = some ⟨.done, 0, [0x00, 0x20]⟩ := by decide +kernel

/-- R82. -/
theorem test_disarm : answer (after (.disarm 1 [0x00, 0x10, 2]) unarmed) = some ⟨.badArgument, 2, []⟩ := by
  decide +kernel

/-- Table 10.3 step 1: SET_PORT port 2, enable 1, ceiling 1024, hold timeout 1. -/
theorem test_setPort :
    ((after (.setPort 1 [2, 1, 4, 0, 0, 1]) quiet).port 2).ceiling = 1024 ∧
    answer (after (.setPort 1 [0, 0, 0, 0, 0, 0]) quiet) = some ⟨.mgmtPort, 0, []⟩ := by decide +kernel

/-- Table 10.3 step 2: SET_LINE line 2, INPUT, RISING, 10 µs. -/
theorem test_setLine : ((after (.setLine 1 [2, 0, 0, 2, 0, 0]) quiet).line 2).filter = .us10 := by decide +kernel

/-- R39: a running silence timer restarts with the new timeout. -/
theorem test_setIngress : (after (.setIngress 1 [7]) framed).receiver.silenceTimer = .running 7 := by decide +kernel

/-- R155: RESTARTED cannot be disabled. -/
theorem test_setEvent : answer (after (.setEvent 1 [1, 0, 0]) quiet) = some ⟨.badArgument, 2, []⟩ := by decide +kernel

/-- R165. -/
theorem test_setNotify : answer (after (.setNotify 1 [20, 16]) quiet) = some ⟨.badArgument, 2, []⟩ := by decide +kernel

/-- Section 10.5: the ACK of 21 removes L and, as the older, W. -/
theorem test_ack : (after (.ack 1 [21]) unacknowledged).notify.sent = [] := by decide +kernel

/-- Section 10.5: the snapshot of 200 ms shows next sequence 22, MANAGEMENT_SILENT 1, pending 1, unacknowledged 2. -/
theorem test_readStatus :
    let s := { unacknowledged with notify :=
      { unacknowledged.notify with silent := true, pending := [waiting] } }
    (answer (after (.readStatus 1 [4]) s)).map (fun r => r.data.take 7) = some [22, 0, 20, 4, 1, 1, 2] := by decide +kernel

/-- R148. -/
theorem test_clearCounters :
    (after (.clearCounters 1 []) { quiet with receiver := { quiet.receiver with lineFaults := 65535 } }).receiver.lineFaults
      = 0 := by decide +kernel

/-- R150, R169: the RESTARTED of a RESTART, cause 1, waits behind the response, which is in transmission. -/
theorem test_restart :
    answer (after (.restart 9 []) quiet) = some .done ∧
    (after (.restart 9 []) quiet).notify.pending.map (·.detail) = [0x0100] ∧
    (after (.restart 9 []) quiet).receiver.state = .hunting := by decide +kernel

/-! ### Ports, notifications and trigger lines -/

/-- R171, ready first: the timer stops and RESTARTED begins. -/
theorem test_readyRise :
    ((after (.readyRise 0) State.reset).port 0).state = .sending ∧
    ((after (.readyRise 0) State.reset).port 0).holdTimer = .stopped := by decide +kernel

/-- R114. -/
theorem test_readyFall : ((after (.readyFall 1) quiet).port 1).state = .held := by decide +kernel

/-- R171, expiry first: the port stalls, the fault line is asserted, and PORT_STATE with detail 0100h joins behind
RESTARTED. -/
theorem test_holdTimerExpiry :
    (after (.holdTimerExpiry 0) State.reset).faultPin = true ∧
    (after (.holdTimerExpiry 0) State.reset).notify.pending.map (·.detail) = [0x0000, 0x0100] := by decide +kernel

/-- R171: then ready rises, and the PORT_STATE entry carries repeat count 2 and detail 0200h. -/
theorem test_recovered :
    let s := after (.readyRise 0) (after (.holdTimerExpiry 0) State.reset)
    s.notify.pending.map (fun e => (e.repeatCount, e.detail)) = [(2, 0x0200)] ∧ s.faultPin = false ∧
    s.notify.sent.map (·.base.cls) = [.restarted] := by decide +kernel

/-- R117: the streams stay in the set. -/
theorem test_recoveryHoldExpiry :
    ((after (.recoveryHoldExpiry 1) recovering).port 1).state = .stalled ∧
    ((after (.recoveryHoldExpiry 1) recovering).port 1).openSet = 0x0028 := by decide +kernel

/-- Table 10.5 steps 9 and 10, on port 1: the ABANDONED close of stream 3 completes and that of stream 5 begins. -/
theorem test_transmissionComplete :
    let s := quiet.setPort 1
      { stalledPort 0x0028 with state := .recovering, ready := true, transmission := some ⟨.abandonedClose 3, false⟩ }
    ((after (.transmissionComplete 1) s).port 1).transmission = some ⟨.abandonedClose 5, false⟩ ∧
    ((after (.transmissionComplete 1) s).port 1).openSet = 0x0020 := by decide +kernel

/-- Table 10.6 at 20 ms: L expires and is resent with retry count 1. -/
theorem test_retry :
    (after (.retryTimerExpiry 21) unacknowledged).notify.sent.map (fun e => (e.retryCount, e.inTransmission)) =
      [(0, false), (1, true)] := by decide +kernel

/-- Table 10.6 at 100 ms: L expires at the limit, MANAGEMENT_SILENT and FAULT. -/
theorem test_retry_limit :
    let s := { unacknowledged with notify :=
      { unacknowledged.notify with sent := [older, { sent with retryCount := 4 }] } }
    (after (.retryTimerExpiry 21) s).notify.silent = true ∧ (after (.retryTimerExpiry 21) s).faultPin = true := by
  decide +kernel

/-- R128: a pin change in INPUT mode with filter 1 µs starts the interval. -/
theorem test_triggerPinChange :
    ((after (.triggerPinChange 2) quiet).line 2).filterInterval = .running 1 ∧
    ((after (.triggerPinChange 2) quiet).line 2).filteredLevel = false := by decide +kernel

/-- R128, R129: the change is accepted and is a RISING trigger edge. -/
theorem test_filterIntervalExpiry :
    ((after (.filterIntervalExpiry 2) (after (.triggerPinChange 2) quiet)).line 2).edges = [.rising] := by decide +kernel

/-- Table 10.4 step 1, slot 4: E1 makes it READY with arm count 1. -/
theorem test_triggerEdge :
    let s := unarmed.setLine 2 { TriggerLine.reset with edges := [.rising] }
    (after (.triggerEdge 2) s).slot 4 = { Slot.reset with state := .ready, armCount := 1 } := by decide +kernel

/-- Table 10.4 step 3, slot 4: E2 cuts the window frame in progress. -/
theorem test_triggerEdge_cut :
    let s := (unarmed.setLine 2 { TriggerLine.reset with edges := [.rising] }).setSlot 4
      { Slot.reset with state := .active { armed.openContext 0 with rowsDelivered := 121 }, frameNumber := 1 }
    ((after (.triggerEdge 2) s).port 2).transmission =
      some ⟨.departure ⟨5, .closeRecord 0 .cut false false 121⟩, false⟩ ∧
    ((after (.triggerEdge 2) s).slot 4).armCount = 1 := by decide +kernel

/-! ### Witnesses: states and operands that meet the hypotheses of each statement, clause by clause

A statement without hypotheses needs none. Where clauses divide the values of a field, the values at the boundary are
given, in the order of the clauses. -/

theorem witness_StepRunsTheFrontCommand :
    { quiet with pending := [.lockLost, .lockGained] }.pending = .lockLost :: [.lockGained] ∧ quiet.pending = [] := by
  decide +kernel

/-- For each setting a command that does change it. -/
theorem witness_EachSettingChangesOnlyByItsCommand :
    (after (.writeEntry 1 [1, 1, 0x80, 0, 200, 0, 80, 0, 160, 1, 64, 0x12, 0x50, 0]) quiet).banks ≠ quiet.banks ∧
    (after (.ingressOpen 2 [2, 7]) { quiet with pendingBank := some 3 }).activeBank ≠ quiet.activeBank ∧
    (after (.setEvent 1 [6, 1, 0]) quiet).notify.settings ≠ quiet.notify.settings ∧
    (after (.setNotify 1 [21, 4]) quiet).notify.retryInterval ≠ quiet.notify.retryInterval ∧
    ((after (.setPort 1 [3, 0, 1, 0, 0, 100]) quiet).port 3).enable ≠ (quiet.port 3).enable ∧
    ((after (.setLine 1 [3, 2, 0, 1, 0, 0]) quiet).line 3).mode ≠ (quiet.line 3).mode ∧
    (after (.setIngress 1 [41]) quiet).receiver.silenceTimeout ≠ quiet.receiver.silenceTimeout ∧
    ((after (.readyFall 3) quiet).port 3).ready ≠ (quiet.port 3).ready ∧
    ((after (.ingressPixel 2 0 ⟨[], [(3, .readyFall 1)]⟩) framed).port 1).ready ≠ (framed.port 1).ready ∧
    ((after (.transmissionComplete 1)
      (recovering.setPort 1 { recovering.port 1 with transmission := some ⟨.abandonedClose 3, false⟩ })).port 1).openSet ≠
      (recovering.port 1).openSet ∧
    ((after (.ingressPixel 2 0 ⟨[], [(3, .completion 1)]⟩) (framed.setPort 1
      { restingPort with state := .sending, transmission := some ⟨.departure closing, false⟩, openSet := 0x0020 })).port
        1).openSet ≠ 0x0020 ∧
    (after (.ingressOpen 2 [2, 7]) quiet).receiver.frameNumber ≠ quiet.receiver.frameNumber ∧
    (after .lockLost quiet).laneLocked ≠ quiet.laneLocked := by decide +kernel

theorem witness_DecodeOfEncodedLineGivesTheCommand :
    (Instr.ingressPixel 3 4095 ⟨[0xffff], []⟩).wellFormed = true ∧ (encodeLine (.ingressPixel 3 4095 ⟨[0xffff], []⟩)).isSome ∧
    (Instr.shortCommandLine [0x01]).wellFormed = true ∧ (encodeLine (.shortCommandLine [0x01])).isSome ∧
    (Instr.unknownCommand 0 0xff []).wellFormed = true ∧ (encodeLine (.unknownCommand 0 0xff [])).isSome := by
  decide +kernel

theorem witness_SentLinesAreJudgedSound :
    let long : EgressLine := .departure ⟨0, .infoRecord 256 [⟨0, List.replicate 128 1⟩, ⟨1, List.replicate 128 2⟩]⟩
    payloadLength long.header = long.payload.length ∧ long.header.count.toNat ≤ 4096 := by decide +kernel

/-- A state in which a window frame is in progress, a record waits, and an entry is unacknowledged keeps every law but the
line store's, which the next theorem shows of it, and a command waits for it. -/
def lawful : State :=
  let s := cutting.setPort 1
    { restingPort with
      reservations := 1, openSet := 0x0020, state := .held, ready := false, queue := [record], holding := 1
      holdTimer := .running 100 }
  { s with
    freeList := List.range' 0 7 ++ List.range' 8 1016
    notify := { s.notify with sent := [sent], nextSequence := 22 }
    pending := [.lockLost] }

theorem witness_WindowLaw : lawful.WindowLaw ∧ lawful.TableLaw := by decide +kernel

theorem witness_StreamLaw : lawful.StreamLaw := by decide +kernel

theorem witness_SlotLaw : lawful.EntryLaw ∧ lawful.SlotLaw := by decide +kernel

theorem witness_ReceiverLaw : lawful.ReceiverLaw ∧ lawful.CounterLaw := by decide +kernel

theorem witness_PortLaw : lawful.PortLaw := by decide +kernel

theorem witness_ResponseLaw : lawful.ResponseLaw ∧ lawful.FaultLaw := by decide +kernel

theorem witness_NotifyLaw : lawful.notify.Law := by decide +kernel

theorem witness_LineLaw : lawful.LineLaw := by decide +kernel

theorem witness_step : ∃ t, step lawful = .next t := ⟨_, rfl⟩

theorem witness_StoreLaw : lawful.StoreLaw := by
  have h : lawful.freeList ++ lawful.allHeld = List.range' 0 7 ++ (List.range' 8 1016 ++ [7]) := by
    rw [show lawful.allHeld = [7] by decide +kernel, ← List.append_assoc]; rfl
  refine ⟨?_, by decide +kernel⟩
  rw [h, show allBlocks = List.range' 0 7 ++ (7 :: List.range' 8 1016) by decide +kernel]
  exact List.Perm.append_left _ List.perm_append_comm

theorem witness_ArbiterTakesTheFirstRuleThatApplies :
    let busy := { restingPort with queue := [closing] }
    let s1 := quiet.setPort 0 { busy with controlCount := 4 }
    let s2 := { quiet.setPort 0 { busy with controlCount := 3 } with responses := [⟨0, 1, .done⟩] }
    let s3 := { quiet with notify := { quiet.notify with pending := [waiting] } }
    let q := { stalledPort 0x8000 with state := .recovering }
    ((s1.port s1.mgmt).departureOffer = some (.departure closing) ∧ (s1.port s1.mgmt).controlCount = 4) ∧
    ((s2.port s2.mgmt).controlCount ≠ 4 ∧ s2.responses = [⟨0, 1, .done⟩]) ∧
    ((s3.port s3.mgmt).departureOffer = none ∧ s3.responses = [] ∧ s3.notify.offer = some (.first waiting)) ∧
    (quiet.responses = [] ∧ quiet.notify.offer = none) ∧ (1 : Fin 4) ≠ quiet.mgmt ∧ restingPort.state ≠ .recovering ∧
    (q.state = .recovering ∧ (stalledPort 0).openSet = 0) ∧ q.openSet.getLsbD (15 : BitVec 4).toNat = true ∧
    ∀ j : BitVec 4, j < 15 → q.openSet.getLsbD j.toNat = false := by decide +kernel

theorem witness_OfferIsTheFirstEligibleEntry :
    (sent ∈ unacknowledged.notify.sent ∧ sent.base.priority = .urgent) ∧
    ({ lawful.notify with pending := [waiting] }.pending = [] ++ waiting :: [] ∧ waiting ∉ ([] : List PendingEntry)) ∧
    unacknowledged.notify.sent = [older] ++ sent :: [] ∧
    ∀ x ∈ [older] ++ ([] : List SentEntry), x.sequence ≠ sent.sequence := by decide +kernel

/-- Disabled class; coalesced; appended with 31 entries held; lost with 32. -/
theorem witness_EventIsIgnoredCoalescedAppendedOrLost :
    let n := { quiet.notify with pending := List.replicate 31 waiting }
    (quiet.notify.setting .windowDone).enable = false ∧ (quiet.notify.setting .lineFault).enable = true ∧
    [waiting] = [] ++ waiting :: [] ∧ (waiting.cls = .lineFault ∧ waiting.subject = .none) ∧
    (∀ x ∈ ([] ++ [] : List PendingEntry), ¬(x.cls = .lineFault ∧ x.subject = .none)) ∧
    (∀ x ∈ n.pending, ¬(x.cls = .commandLost ∧ x.subject = .none)) ∧ n.sent.length + n.pending.length < 32 ∧
    ¬(n.sent ++ [sent]).length + n.pending.length < 32 := by decide +kernel

theorem witness_CoveredRowsAreNumberedFromZero :
    ({ Entry.reset with height := 4096, width := 4096, holdOff := 15 } : Entry).Legal ∧
    ({ Entry.reset with topRow := 4095, leftColumn := 4095 } : Entry).Legal := by decide

/-- The row's last column is the window's last, and a segment of one sample. -/
theorem witness_SegmentTakesEveryStepthColumn :
    let c := { context with width := 1 }
    (0 < (c.segment (List.replicate 21 0)).length) ∧ c.leftColumn + c.width ≤ (List.replicate 21 (0 : Half)).length := by
  decide +kernel

/-- Not READY; READY with 126 and with 127 places taken; READY on a port that is not accepting. -/
theorem witness_ReadySlotOpensOrIsSkipped :
    let ready := (quiet.setEntry 0 3 window).setSlot 3 { Slot.reset with state := .ready }
    let s1 := ready.setPort 1 { restingPort with state := .sending, queue := List.replicate 126 closing }
    let s2 := ready.setPort 1 { restingPort with state := .sending, queue := List.replicate 127 closing }
    let s3 := ready.setPort 1 (stalledPort 0)
    let q := fun s : State => s.port (s.governing 3).port
    (quiet.slot 3).state ≠ .ready ∧
    ((s1.slot 3).state = .ready ∧ (q s1).state = .sending ∧ (q s1).queued + (q s1).reservations ≤ 126) ∧
    ((s2.slot 3).state = .ready ∧ ¬(q s2).queued + (q s2).reservations ≤ 126) ∧
    ((s3.slot 3).state = .ready ∧ (q s3).state = .stalled) := by decide +kernel

/-- 127 places taken and the blocks granted up to the ceiling; one block too many; 128 places taken. -/
theorem witness_CoveredRowIsEnqueuedOrDropped :
    let at_ := fun q : Port => cutting.setPort 1 { q with reservations := 1 }
    let s1 := at_ { restingPort with queue := List.replicate 126 closing, ceiling := 1 }
    let s2 := at_ { restingPort with ceiling := 0 }
    let s3 := at_ { restingPort with queue := List.replicate 127 closing }
    let k := ceilDiv (context.segment (List.replicate 640 0)).length 64
    (cutting.slot 3).state = .active context ∧ k = 1 ∧
    ((s1.port 1).queued + (s1.port 1).reservations < 128 ∧ k ≤ s1.freeList.length ∧
      (s1.port 1).holding + k ≤ (s1.port 1).ceiling) ∧
    ((s2.port 1).queued + (s2.port 1).reservations < 128 ∧ ¬(s2.port 1).holding + k ≤ (s2.port 1).ceiling) ∧
    ¬(s3.port 1).queued + (s3.port 1).reservations < 128 := by decide +kernel

/-- The last covered row, and the row before it. -/
theorem witness_TakenRowMeetsEachActiveSlotInTurn :
    (cutting.slot 3).state = .active context ∧ context.lastCoveredRow ≤ 48 ∧ 47 < context.lastCoveredRow ∧
    (cutting.slot 4).state = .off := by decide +kernel

theorem witness_RecordOfAnEntryReadsBack : armed.Legal ∧ Entry.reset.Legal := by decide

/-- The commands are taken in this state, in MANAGEMENT_SILENT, and inside a frame. -/
theorem witness_CanTake :
    quiet.CanTake ∧ framed.CanTake ∧ cutting.CanTake ∧ unarmed.CanTake ∧ unacknowledged.CanTake ∧ recovering.CanTake ∧
    { quiet with responses := List.replicate 15 ⟨0, 0x01, .done⟩ }.CanTake ∧
    { unacknowledged with notify := { unacknowledged.notify with silent := true } }.CanTake := by decide +kernel

theorem witness_EchoReturnsItsArguments : quiet.CanTake ∧ (List.replicate 252 (0 : Byte)).length ≤ 252 := by
  decide +kernel

theorem witness_ReadCommandsReturnWhatTheyRead :
    quiet.CanTake ∧ ((3 : Byte).toNat < 4 ∧ (15 : Byte).toNat < 16) ∧ (4 ≤ (4 : Byte).toNat ∨ 16 ≤ (16 : Byte).toNat) ∧
    (0x05 : Byte) ∉ ([0x00, 0x01, 0x02, 0x03, 0x04, 0x10, 0x11, 0x12, 0x13] : List Byte) ∧
    (0x14 : Byte) ∉ ([0x00, 0x01, 0x02, 0x03, 0x04, 0x10, 0x11, 0x12, 0x13] : List Byte) := by decide +kernel

theorem witness_SetIngressSetEventAndSetNotifyStoreTheirSettings :
    quiet.CanTake ∧ (1 : Byte) ≠ 0 ∧ (255 : Byte) ≠ 0 ∧ (EventClass.commandLost ≠ .restarted ∨ false = true) ∧
    ((12 : Byte).toNat = 0 ∨ 11 < (12 : Byte).toNat) ∧ 1 < (2 : Byte).toNat ∧
    (1 ≤ (1 : Byte).toNat ∧ (15 : Byte).toNat ≤ 15) ∧ 15 < (16 : Byte).toNat := by decide +kernel

theorem witness_AckRemovesTheEntryAndEveryOlderOne :
    unacknowledged.CanTake ∧ unacknowledged.taken.notify.sent = [older] ++ sent :: [] ∧ sent.sequence = 21 ∧
    (∀ x ∈ [older], x.sequence ≠ 21) ∧ ∀ x ∈ unacknowledged.notify.sent, x.sequence ≠ 22 := by decide +kernel

theorem witness_WriteEntryActsByTheRoleOfTheBank :
    let bytes : List Byte := [0xe0, 0, 0, 0x01, 0xe0, 0, 0, 0x02, 0x80, 0x25, 0x00, 0x60]
    let raw : RawRecord := ⟨0xe0, 0, 480, 0, 640, 0x25, 0x00, 0x60⟩
    let taken := quiet.setEntry 0 0 { armed with trigger := none }
    let open_ := fun s : State => fun p : Fin 4 => (s.port p).enable
    (quiet.CanTake ∧ rawRecord bytes = some raw ∧ entryOfRecord raw = .ok armed) ∧
    ((3 : Fin 4) ≠ quiet.activeBank ∧ quiet.pendingBank ≠ some 3) ∧
    { quiet with pendingBank := some 3 }.pendingBank = some 3 ∧
    (framed.activeBank = 0 ∧ framed.receiver.state = .inFrame) ∧
    (quiet.activeBank = 0 ∧ quiet.receiver.state ≠ .inFrame) ∧
    bankFault (quiet.banks[(0 : Fin 4)].set 15 armed) (open_ quiet) = none ∧
    bankFault (taken.banks[(0 : Fin 4)].set 15 armed) (open_ taken) = some (15, 1) ∧
    4 ≤ (4 : Byte).toNat ∧ 16 ≤ (16 : Byte).toNat ∧ entryOfRecord { raw with height := 4097 } = .error 5 := by
  decide +kernel

theorem witness_SelectBankFollowsItsTable :
    let switching := { quiet with pendingBank := some 3 }
    let open_ := fun p : Fin 4 => (quiet.port p).enable
    let bad := (quiet.setEntry 3 0 armed).setEntry 3 1 armed
    quiet.CanTake ∧ switching.CanTake ∧ 4 ≤ (4 : Byte).toNat ∧ (3 : Byte).toNat < 4 ∧
    (quiet.activeBank = 0 ∧ quiet.pendingBank = none) ∧ (switching.activeBank = 0 ∧ switching.pendingBank ≠ none) ∧
    ((3 : Fin 4) ≠ quiet.activeBank ∧ bankFault quiet.banks[(3 : Fin 4)] open_ = none) ∧
    bankFault bad.banks[(3 : Fin 4)] open_ = some (1, 1) := by decide +kernel

theorem witness_ArmAddsToEachMaskedArmedSlot :
    unarmed.CanTake ∧ unarmed.pendingBank = none ∧ { unarmed with pendingBank := some 1 }.pendingBank ≠ none ∧
    (1 ≤ (1 : Byte).toNat ∧ (15 : Byte).toNat ≤ 15 ∧ 15 < (16 : Byte).toNat) ∧
    (unarmed.governing 4).enable = true ∧ (unarmed.governing 4).mode = .armed ∧ (unarmed.governing 5).enable = false := by
  decide +kernel

theorem witness_DisarmClearsCountsAndCuts :
    unarmed.CanTake ∧ (1 : Byte).toNat ≤ 1 ∧ 1 < (2 : Byte).toNat ∧ (unarmed.governing 4).mode = .armed := by
  decide +kernel

/-- Each field at the first value out of range; each clause in range at the largest ceiling and hold timeout. -/
theorem witness_SetPortStoresOrRefuses :
    quiet.CanTake ∧ (4 ≤ (4 : Byte).toNat ∧ 1 < (2 : Byte).toNat ∧ 1024 < (halfOf 0x04 0x01).toNat ∧ 1000 < (halfOf 0x03 0xe9).toNat) ∧
    ((3 : Byte).toNat < 4 ∧ (halfOf 0x04 0x00).toNat ≤ 1024 ∧ (halfOf 0x03 0xe8).toNat ≤ 1000) ∧
    quiet.mgmt = 0 ∧ ((recovering.port 1).enable = true ∧ (recovering.port 1).openSet ≠ 0 ∧ 1 ≠ recovering.mgmt) ∧
    ((3 : Fin 4) ≠ quiet.mgmt ∧ (∀ i : Fin 16, (quiet.entry quiet.activeBank i).enable = false) ∧
      quiet.pendingBank = none ∧ (quiet.port 3).queued = 0 ∧ (quiet.port 3).reservations = 0 ∧
      (quiet.port 3).openSet = 0 ∧ (quiet.port 3).transmission = none) := by decide +kernel

theorem witness_SetLineStoresWithTheEffectsOfItsMode :
    let out := quiet.setLine 3 { TriggerLine.reset with mode := .outLatch }
    let under := quiet.setLine 3 { TriggerLine.reset with pin := true, filterInterval := .running 1 }
    quiet.CanTake ∧ out.CanTake ∧ under.CanTake ∧ (out.line 3).mode ≠ .input ∧ (quiet.line 3).mode = .input ∧
    (quiet.line 3).filterInterval.isRunning = false ∧
    ((under.line 3).filterInterval.isRunning = true ∧ FilterTime.us100 ≠ (under.line 3).filter ∧
      FilterTime.us0 ≠ (under.line 3).filter) ∧
    (3 < (4 : Byte).toNat ∧ 2 < (3 : Byte).toNat ∧ 1 < (2 : Byte).toNat ∧ 15 < (16 : Byte).toNat) := by decide +kernel

theorem witness_RestartBringsEveryBlockBack : (quiet.setPort 1 (stalledPort 0)).CanTake ∧ cutting.CanTake := by
  decide +kernel

theorem witness_UnknownCodesAndBadLengthsAreAnswered :
    quiet.CanTake ∧ 252 < (List.replicate 253 (0 : Byte)).length ∧
    ((0x10, 14) ∈ ([(0x10, 14)] : List (Byte × Nat)) ∧ (List.replicate 15 (0 : Byte)).length ≠ 14) ∧
    (List.replicate 1 (0 : Byte)).length ≠ 0 := by decide +kernel

theorem witness_LostCommandsAreReportedOnly : full.receiver.state ≠ .noSignal ∧ 16 ≤ full.outstanding.length := by
  decide +kernel

theorem witness_LockGainedPassesToHunting : State.reset.receiver.state = .noSignal := by decide +kernel

theorem witness_LockLostHeaderFaultAndSilenceAbortTheFrame :
    cutting.receiver.state = .inFrame ∧ quiet.receiver.state = .betweenFrames ∧
    (quiet.setReceiverState .hunting).receiver.state = .hunting ∧ cutting.receiver.silenceTimer.isRunning = true := by
  decide +kernel

theorem witness_StrayLinesAreCountedAndReported :
    (quiet.setReceiverState .hunting).receiver.state = .hunting ∧ framed.receiver.state ≠ .noSignal := by decide +kernel

/-- A command line; a PIXEL line of the expected row; one of the row below it; a CONTROL line on channel 1. -/
theorem witness_TrailerFailureIsReportedAndItsRowsMissed :
    let s := { framed with receiver := { framed.receiver with expectedRow := 1 } }
    s.receiver.state ≠ .noSignal ∧
    ((⟨.controlKind, 0, 0, 0, 0⟩ : LineHeader).kind = .controlKind ∧ (⟨.controlKind, 0, 0, 0, 0⟩ : LineHeader).stream = 0) ∧
    (s.receiver.state = .inFrame ∧ s.receiver.expectedRow ≤ (⟨.pixelKind, 0, 0, 0, 1⟩ : LineHeader).row.toNat) ∧
    ¬s.receiver.expectedRow ≤ (⟨.pixelKind, 0, 0, 0, 0⟩ : LineHeader).row.toNat ∧
    ¬(⟨.controlKind, 1, 0, 0, 0⟩ : LineHeader).stream = 0 := by decide +kernel

theorem witness_OpenStartsAFrame :
    quiet.receiver.state = .betweenFrames ∧ (quiet.setReceiverState .hunting).receiver.state = .hunting ∧
    cutting.receiver.state = .inFrame := by decide +kernel

/-- The expected row itself, at the frame's depth and at another. -/
theorem witness_PixelLineAdvancesTheFrame :
    framed.receiver.state = .inFrame ∧ framed.receiver.expectedRow ≤ (0 : BitVec 12).toNat ∧
    (2 : BitVec 2) = framed.receiver.depth ∧ (3 : BitVec 2) ≠ framed.receiver.depth := by decide +kernel

/-- The row just below the expected one; and row 4095 once it has been taken or missed. -/
theorem witness_PixelLineBelowTheExpectedRowIsDiscarded :
    let s := fun e => { framed with receiver := { framed.receiver with expectedRow := e } }
    (s 1).receiver.state = .inFrame ∧ (0 : BitVec 12).toNat < (s 1).receiver.expectedRow ∧
    (s 4096).receiver.expectedRow = 4096 := by decide +kernel

/-- 256 bytes as the fourth line; 257 bytes; the fifth line; a window that carries info, with and without room. -/
theorem witness_InfoLineIsCopiedWithinItsLimits :
    let s := fun n => { cutting with receiver := { cutting.receiver with infoCount := n } }
    (s 3).receiver.state = .inFrame ∧ (List.replicate 256 (0 : Byte)).length ≤ 256 ∧ (s 3).receiver.infoCount < 4 ∧
    256 < (List.replicate 257 (0 : Byte)).length ∧ 4 ≤ (s 4).receiver.infoCount ∧
    ((cutting.slot 3).state = .active context ∧ context.carryInfo = true) ∧
    (cutting.port 1).queued + (cutting.port 1).reservations < 128 ∧
    ¬((cutting.setPort 1 { cutting.port 1 with reservations := 128 }).port 1).reservations < 128 := by decide +kernel

theorem witness_CloseEndsTheFrame : cutting.receiver.state = .inFrame := by decide +kernel

theorem witness_ReadyInputMovesThePort :
    ((held.port 1).ready = false ∧ (held.port 1).state = .held) ∧
    (((quiet.setPort 1 { restingPort with ready := false, state := .sending }).port 1).ready = false ∧
      ((quiet.setPort 1 { restingPort with ready := false, state := .sending }).port 1).state = .sending) ∧
    ((recovering.port 1).ready = false ∧ (recovering.port 1).state = .recovering) ∧
    (((quiet.setPort 1 (stalledPort 1)).port 1).state = .stalled ∧ ((quiet.setPort 1 (stalledPort 1)).port 1).openSet ≠ 0) ∧
    (((quiet.setPort 1 (stalledPort 0)).port 1).openSet = 0 ∧ (stalledPort 0).transmission = none ∧
      (stalledPort 0).stallOutstanding = true) ∧
    (quiet.port 1).ready = true := by decide +kernel

theorem witness_HoldTimerExpiryStallsThePort :
    (held.port 1).state = .held ∧ (held.port 1).holdTimer.isRunning = true := by decide +kernel

theorem witness_RecoveryHoldExpiryStallsThePortAgain :
    recovering.PortLaw ∧ (recovering.port 1).state = .recovering ∧ (recovering.port 1).holdTimer.isRunning = true := by
  decide +kernel

/-- SENDING with an OPEN; RECOVERING with a stream left and with none left after the CLOSE. -/
theorem witness_CompletionFreesCountsAndGoesOn :
    let x : Transmission := ⟨.abandonedClose 3, false⟩
    let q := fun set : BitVec 16 => { stalledPort set with state := .recovering, transmission := some x }
    ((quiet.setPort 1 { restingPort with state := .sending, transmission := some ⟨.departure record, false⟩ }).port 1).state
      = .sending ∧
    ((quiet.setPort 1 (q 0x0028)).port 1).transmission = some x ∧
    (0x0028 &&& ~~~(1#16 <<< 3) : BitVec 16) ≠ 0 ∧ (0x0008 &&& ~~~(1#16 <<< 3) : BitVec 16) = 0 := by decide +kernel

/-- At the last retry below the limit, and at the limit. -/
theorem witness_RetryTimerExpiryResendsOrFallsSilent :
    unacknowledged.notify.sent = [older] ++ sent :: [] ∧ sent.retryTimer.isRunning = true ∧
    (∀ x ∈ [older] ++ [], x.sequence ≠ sent.sequence) ∧
    { sent with retryCount := 3 }.retryCount < unacknowledged.notify.retryLimit ∧
    unacknowledged.notify.retryLimit ≤ { sent with retryCount := 4 }.retryCount := by decide +kernel

theorem witness_PinChangesAreFilteredAndAccepted :
    let l := { TriggerLine.reset with pin := true, filterInterval := .running 1 }
    { TriggerLine.reset with mode := .outWindow }.mode ≠ .input ∧
    (l.mode = .input ∧ (!l.pin) = l.filteredLevel) ∧
    (!TriggerLine.reset.pin) ≠ TriggerLine.reset.filteredLevel ∧ TriggerLine.reset.filter ≠ .us0 ∧
    { TriggerLine.reset with filter := .us0 }.filter = .us0 ∧ l.filterInterval.isRunning = true := by decide

/-- Each cause of refusal at its boundary, and both policies of a slot in its window frame. -/
theorem witness_TriggerEdgeArmsOrIsRefused :
    let s := unarmed.setLine 2 { TriggerLine.reset with edges := [.rising] }
    let at_ := fun t : Slot => (s.setSlot 4 t).slot 4
    (s.line 2).edges = .rising :: [] ∧
    ((s.governing 4).enable = true ∧ (s.governing 4).mode = .armed ∧ (s.governing 4).trigger = some 2) ∧
    (s.governing 5).enable = false ∧ 0 < (at_ { Slot.reset with holdOff := 1 }).holdOff ∧
    ((at_ { Slot.reset with armCount := 15 }).holdOff = 0 ∧ (at_ { Slot.reset with armCount := 15 }).armCount = 15) ∧
    ((at_ { Slot.reset with armCount := 14 }).armCount ≠ 15 ∧ (at_ Slot.reset).state.isActive = false) ∧
    ((at_ { Slot.reset with state := .active context }).state.isActive = true ∧ (s.governing 4).policy = .restart ∧
      { armed with policy := .keep }.policy = .keep) := by decide +kernel

end Sys2Proof.Tests
end

section
/-! SUPPORT. The ingress receiver (Chapter 2), said once: what each of its operations does to the state, what an abort
keeps, and how the window frames end at a sound CLOSE. -/

namespace Sys2Proof.Machine

/-! ### The receiver's commands and what they conclude -/

theorem exec_lockGained (s : State) : exec .lockGained s = conclude s (lockGained s) := rfl
theorem exec_lockLost (s : State) : exec .lockLost s = conclude s (lockLost s) := rfl
theorem exec_headerFault (s : State) : exec .headerFault s = conclude s (headerFault s) := rfl
theorem exec_frameSilenceExpiry (s : State) : exec .frameSilenceExpiry s = conclude s (frameSilence s) := rfl
theorem exec_trailerFailure (h : LineHeader) (s : State) :
    exec (.trailerFailure h) s = conclude s (trailerFailure h s) := rfl
theorem exec_ingressPixel (depth : BitVec 2) (row : BitVec 12) (content : LineContent Half) (s : State) :
    exec (.ingressPixel depth row content) s =
      conclude s (ingressPixel depth row content.items content.during s) := rfl
theorem exec_ingressInfo (content : LineContent Byte) (s : State) :
    exec (.ingressInfo content) s = conclude s (ingressInfo content.items content.during s) := rfl
theorem exec_ingressClose (payload : List Byte) (s : State) :
    exec (.ingressClose payload) s = conclude s (ingressClose s) := rfl
theorem exec_strayControlLine (channel : BitVec 4) (payload : List Byte) (s : State) :
    exec (.strayControlLine channel payload) s = conclude s (strayControl s) := rfl

/-- A command whose effect is u ends its step from u. -/
theorem ends_of_effect {c : Instr} {s u : State} {effect : Option State} (hexec : exec c s = conclude s effect)
    (heffect : effect = some u) : ∃ t, exec c s = .next t ∧ StepEnds u t := by
  rw [hexec, heffect]
  exact conclude_some s u

/-! ### Events of the receiver -/

/-- An event is made from its class's setting and the frame number alone (R20, R154). -/
theorem eventOf_congr {s u : State} (hframe : u.receiver.frameNumber = s.receiver.frameNumber)
    (hsettings : u.notify.settings = s.notify.settings) (c : EventClass) (sub : Subject) (hi lo : Byte) :
    u.eventOf c sub hi lo = s.eventOf c sub hi lo := by
  simp only [State.eventOf, NotifyUnit.setting, hsettings, hframe]

/-- A counted LINE_FAULT (R41): the event and the counter. -/
theorem countedFault_eq (cause kind : Byte) (s : State) :
    countedFault cause kind s = { s with
      receiver := { s.receiver with lineFaults := satInc s.receiver.lineFaults }
      notify := s.notify.takeAll [s.eventOf .lineFault .none cause kind] } := by
  simp only [countedFault, raiseEvent_eq, State.setReceiver]

@[simp] theorem countedFault_state (cause kind : Byte) (s : State) :
    (countedFault cause kind s).receiver.state = s.receiver.state := by rw [countedFault_eq]

@[simp] theorem countedFault_expectedRow (cause kind : Byte) (s : State) :
    (countedFault cause kind s).receiver.expectedRow = s.receiver.expectedRow := by rw [countedFault_eq]

/-- An event raised right after a counted LINE_FAULT joins the queue after it. -/
theorem raiseEvent_countedFault (c : EventClass) (sub : Subject) (hi lo cause kind : Byte) (s : State) :
    raiseEvent c sub hi lo (countedFault cause kind s) = { s with
      receiver := { s.receiver with lineFaults := satInc s.receiver.lineFaults }
      notify := s.notify.takeAll [s.eventOf .lineFault .none cause kind, s.eventOf c sub hi lo] } := by
  have hsettings : (countedFault cause kind s).notify.settings = s.notify.settings := by
    rw [countedFault_eq]
    exact (takeAll_kept ..).1
  have hevent : (countedFault cause kind s).eventOf c sub hi lo = s.eventOf c sub hi lo :=
    eventOf_congr (by rw [countedFault_eq]) hsettings c sub hi lo
  rw [raiseEvent_eq, hevent, countedFault_eq]
  rfl

/-- A stray line: the counter everywhere, the event outside HUNTING (R26, R27, R29). -/
theorem strayLine_eq (k : LineKind) (s : State) :
    strayLine k s = { s with
      receiver := { s.receiver with strayLines := satInc s.receiver.strayLines }
      notify :=
        if s.receiver.state = .hunting then s.notify
        else s.notify.takeAll [s.eventOf .lineFault .none 3 (kindByte k)] } := by
  by_cases h : s.receiver.state = .hunting
  · simp only [strayLine, h, if_true, State.setReceiver]
  · simp only [strayLine, h, if_false, raiseEvent_eq, State.setReceiver]

/-! ### Lock -/

theorem lockGained_of_noSignal {s : State} (h : s.receiver.state = .noSignal) :
    lockGained s = some { s with
      laneLocked := true
      receiver := { s.receiver with state := .hunting }
      notify := s.notify.takeAll [s.eventOf .signalChange .none 1 0] } := by
  simp only [lockGained, h, if_true, raiseEvent_eq]
  rfl

/-- The receiver's part of lock lost (R22). -/
theorem loseLock_eq (s : State) :
    loseLock s = { s with
      laneLocked := false
      receiver := { s.receiver with state := .noSignal }
      notify := s.notify.takeAll [s.eventOf .signalChange .none 0 0] } := by
  simp only [loseLock, raiseEvent_eq]
  rfl

/-! ### The abort of a frame -/

/-- An abort changes no class setting. -/
theorem abortFrame_settings (cause : AbortCause) (s : State) :
    (abortFrame cause s).notify.settings = s.notify.settings := by
  unfold abortFrame announceFrameAbort
  exact (movesWindows_raiseEvent ..).settings.trans (movesWindows_forSlots (movesWindows_endWindow .aborted) _).settings

/-- An event raised after an abort is the event raised before it. -/
theorem abortFrame_eventOf (cause : AbortCause) (s : State) (c : EventClass) (sub : Subject) (hi lo : Byte) :
    (abortFrame cause s).eventOf c sub hi lo = s.eventOf c sub hi lo :=
  eventOf_congr (by rw [abortFrame_receiver]; rfl) (abortFrame_settings cause s) c sub hi lo

/-- Lock lost once the frame has been aborted (R22). -/
theorem loseLock_abortFrame (cause : AbortCause) (s : State) :
    loseLock (abortFrame cause s) = { abortFrame cause s with
      laneLocked := false
      receiver := { (abortFrame cause s).receiver with state := .noSignal }
      notify := (abortFrame cause s).notify.takeAll [s.eventOf .signalChange .none 0 0] } := by
  rw [loseLock_eq, abortFrame_eventOf]

/-- A header fault's own part, whatever came before it (R23). -/
theorem countedFault_hunting (s : State) :
    countedFault 1 0xff (s.setReceiverState .hunting) = { s with
      receiver := { s.receiver with state := .hunting, lineFaults := satInc s.receiver.lineFaults }
      notify := s.notify.takeAll [s.eventOf .lineFault .none 1 0xff] } :=
  countedFault_eq ..

theorem countedFault_hunting_abortFrame (cause : AbortCause) (s : State) :
    countedFault 1 0xff ((abortFrame cause s).setReceiverState .hunting) = { abortFrame cause s with
      receiver :=
        { (abortFrame cause s).receiver with state := .hunting, lineFaults := satInc s.receiver.lineFaults }
      notify := (abortFrame cause s).notify.takeAll [s.eventOf .lineFault .none 1 0xff] } := by
  rw [countedFault_hunting, abortFrame_eventOf, abortFrame_receiver]
  rfl

/-! ### Lines that fail their trailer check (R24, R25) -/

/-- A failed PIXEL line announces the rows up to its own, if it is not below the expected row (R25). -/
theorem failedPixel_eq (r : Nat) (s : State) :
    failedPixel r s =
      if s.receiver.expectedRow ≤ r then
        { missRows s.receiver.expectedRow (r + 1 - s.receiver.expectedRow) s with
          receiver := { s.receiver with expectedRow := r + 1 } }
      else s := by
  simp only [failedPixel, State.setReceiver, (movesWindows_missRows ..).receiver]

/-- A line that fails its trailer: the counted LINE_FAULT, then what its kind adds (R24, R25; log entry 20). -/
theorem failedLine_eq (h : LineHeader) (s : State) :
    failedLine h s =
      let b := countedFault 2 (kindByte h.kind) s
      if h.kind = .controlKind ∧ h.stream = 0 then raiseEvent .commandLost .none 1 0 b
      else if h.kind = .pixelKind ∧ s.receiver.state = .inFrame ∧ s.receiver.expectedRow ≤ h.row.toNat then
        { missRows s.receiver.expectedRow (h.row.toNat + 1 - s.receiver.expectedRow) b with
          receiver := { b.receiver with expectedRow := h.row.toNat + 1 } }
      else b := by
  unfold failedLine
  cases hk : h.kind with
  | controlKind => simp
  | pixelKind => by_cases hs : s.receiver.state = .inFrame <;> simp [failedPixel_eq, hs]
  | openKind => simp
  | infoKind => simp
  | closeKind => simp

theorem trailerFailure_of_lock {s : State} (hs : s.receiver.state ≠ .noSignal) (h : LineHeader) :
    trailerFailure h s = some (failedLine h s) := by
  simp only [trailerFailure, hs, if_false]

/-! ### Sound PIXEL lines (R32 to R34) -/

theorem ingressPixel_inFrame {s : State} (hs : s.receiver.state = .inFrame) (depth : BitVec 2) (row : BitVec 12)
    (samples : List Half) (during : List (Fin 16 × RowEvent)) :
    ingressPixel depth row samples during s = some (framePixel depth row.toNat samples during s) := by
  simp only [ingressPixel, hs]

/-- Below the expected row a PIXEL line is a counted row-order fault and nothing else (R33). -/
theorem framePixel_of_lt {s : State} {r : Nat} (hr : r < s.receiver.expectedRow) (depth : BitVec 2)
    (samples : List Half) (during : List (Fin 16 × RowEvent)) :
    framePixel depth r samples during s = countedFault 5 1 s := by
  simp only [framePixel, hr, if_true]
  rfl

/-- At or above the expected row it advances the frame; its own row is taken at the frame's depth alone (R32, R34). -/
theorem framePixel_of_le {s : State} {r : Nat} (hr : s.receiver.expectedRow ≤ r) (depth : BitVec 2)
    (samples : List Half) (during : List (Fin 16 × RowEvent)) :
    framePixel depth r samples during s =
      let advanced := { s with receiver := s.receiver.advance r }
      if depth = s.receiver.depth then
        takeRow depth r (samples.map (sampleValue depth)) during
          (missRows s.receiver.expectedRow (r - s.receiver.expectedRow) advanced)
      else missRows s.receiver.expectedRow (r + 1 - s.receiver.expectedRow) advanced := by
  simp only [framePixel, Nat.not_lt.mpr hr, if_false, State.setReceiver]

/-! ### Stray lines (R26, R27, R29) -/

theorem ingressPixel_outside {s : State} (hs : s.receiver.state = .hunting ∨ s.receiver.state = .betweenFrames)
    (depth : BitVec 2) (row : BitVec 12) (samples : List Half) (during : List (Fin 16 × RowEvent)) :
    ingressPixel depth row samples during s = some (strayLine .pixelKind s) := by
  rcases hs with hs | hs <;> simp only [ingressPixel, hs]

theorem ingressInfo_outside {s : State} (hs : s.receiver.state = .hunting ∨ s.receiver.state = .betweenFrames)
    (payload : List Byte) (during : List (Fin 16 × RowEvent)) :
    ingressInfo payload during s = some (strayLine .infoKind s) := by
  rcases hs with hs | hs <;> simp only [ingressInfo, hs]

theorem ingressClose_outside {s : State} (hs : s.receiver.state = .hunting ∨ s.receiver.state = .betweenFrames) :
    ingressClose s = some (strayLine .closeKind s) := by
  rcases hs with hs | hs <;> simp only [ingressClose, hs]

theorem strayControl_of_lock {s : State} (hs : s.receiver.state ≠ .noSignal) :
    strayControl s = some (strayLine .controlKind s) := by
  simp only [strayControl, hs, if_false]

/-! ### The end of a frame (R36, R77, R78) -/

/-- A window frame's end overwrites its slot's state, so whatever that state was made just before is of no account. -/
theorem WindowsEnd.of_setSlot_state {code : CompletionCode} {i : Fin 16} {c : WindowContext} {x : SlotState}
    {s u : State} (h : WindowsEnd code [(i, c)] (s.setSlot i { s.slot i with state := x }) u) :
    WindowsEnd code [(i, c)] s u where
  slot j := by
    rw [h.slot j, slot_setSlot, setSlot_governing]
    by_cases hj : j = i
    · subst hj; simp
    · simp [hj, Ne.symm hj]
  port p := h.port p
  notify := h.notify
  rest := by rw [h.rest]; rfl

/-- At frame end one slot's window frame, if it has one in progress, ends COMPLETE and CLIPPED (R78). -/
theorem windowsEnd_endAtFrameEnd (i : Fin 16) (s : State) :
    WindowsEnd .complete ((s.slot i).context.map fun c => (i, { c with clipped := true })).toList s
      (endAtFrameEnd i s) := by
  have h := windowsEnd_endWindow .complete i (updateContext i (fun c => { c with clipped := true }) s)
  unfold endAtFrameEnd
  cases hs : (s.slot i).state with
  | active c =>
    rw [show (s.slot i).context = some c by simp only [Slot.context, hs]]
    simp only [updateContext, hs] at h ⊢
    rw [slot_setSlot, if_pos rfl] at h
    exact h.of_setSlot_state
  | _ => simpa only [updateContext, Slot.context, hs, Option.map_none] using h

/-- The window frames in progress with a change to their contexts, slot by slot. -/
theorem inProgress_map (change : WindowContext → WindowContext) (s : State) :
    ((s.inProgress fun _ => true).map fun x => (x.1, change x.2)) =
      allSlots.flatMap fun i => ((s.slot i).context.map fun c => (i, change c)).toList := by
  simp [State.inProgress, List.filterMap_eq_flatMap_toList, List.map_flatMap, Option.toList_map, Function.comp_def]

/-- Slot after slot, where each slot's turn ends that slot's window frame with a change made to its context. -/
theorem windowsEnd_forSlots_map {code : CompletionCode} {f : Fin 16 → State → State}
    {change : WindowContext → WindowContext}
    (hturn : ∀ i s, WindowsEnd code ((s.slot i).context.map fun c => (i, change c)).toList s (f i s)) (s : State) :
    WindowsEnd code ((s.inProgress fun _ => true).map fun x => (x.1, change x.2)) s (forSlots f s) := by
  have key : ∀ (l : List (Fin 16)), l.Nodup → ∀ s : State,
      WindowsEnd code (l.flatMap fun i => ((s.slot i).context.map fun c => (i, change c)).toList) s
        (l.foldl (fun s i => f i s) s) := by
    intro l
    induction l with
    | nil => exact fun _ s => .refl code s
    | cons i l ih =>
      intro hd s
      obtain ⟨hi, hl⟩ := List.nodup_cons.mp hd
      have hsame : ∀ j ∈ l, (f i s).slot j = s.slot j := by
        intro j hj
        have hij : i ≠ j := fun h => hi (h ▸ hj)
        rw [(hturn i s).slot j]
        cases (s.slot i).context <;> simp [hij]
      have htail := ih hl (f i s)
      rw [List.flatMap_congr fun j hj => by rw [hsame j hj]] at htail
      exact (hturn i s).trans htail
  rw [inProgress_map]
  exact key allSlots (List.nodup_finRange 16) s

/-- A sound CLOSE inside a frame (R36): the receiver's part, and every window frame still in progress ended. -/
theorem windowsEnd_frameClose (s : State) :
    WindowsEnd .complete ((s.inProgress fun _ => true).map fun x => (x.1, { x.2 with clipped := true }))
      { s with receiver := { s.receiver with state := .betweenFrames, silenceTimer := .stopped } } (frameClose s) :=
  windowsEnd_forSlots_map (change := fun c => { c with clipped := true }) windowsEnd_endAtFrameEnd
    (s.setReceiver { s.receiver with state := .betweenFrames, silenceTimer := .stopped })

theorem ingressClose_inFrame {s : State} (hs : s.receiver.state = .inFrame) :
    ingressClose s = some (frameClose s) := by
  simp only [ingressClose, hs]

/-- The two fields of a WINDOW_DONE detail (Table 1.15). -/
theorem windowDoneDetail_toNat (code : CompletionCode) (rows : Nat) :
    (windowDoneDetail code rows).toNat = 8192 * code.code.toNat + rows % 8192 := by
  have hcode : code.code.toNat < 8 := by cases code <;> decide
  have hrows : (BitVec.ofNat 13 rows).toNat = rows % 2 ^ 13 := BitVec.toNat_ofNat ..
  have hlt : rows % 2 ^ 13 < 2 ^ 13 := Nat.mod_lt _ (by decide)
  rw [windowDoneDetail, BitVec.toNat_append, BitVec.extractLsb'_toNat, hrows, Nat.shiftLeft_eq, Nat.mul_comm,
    ← Nat.two_pow_add_eq_or_of_lt hlt]
  simp only [Nat.shiftRight_zero]
  omega

end Sys2Proof.Machine
end

section
/-! The statements about the ingress receiver (Chapter 2), settled. -/

namespace Sys2Proof.Machine

/-- Settles O44: lock gained concludes with its effect in NO_SIGNAL, and the end of a step leaves the receiver alone. -/
theorem lockGainedPassesToHunting : Obligations.LockGainedPassesToHunting := by
  intro s hs
  obtain ⟨t, ht, hends⟩ := ends_of_effect (exec_lockGained s) (lockGained_of_noSignal hs)
  exact ⟨t, ht, hends, by rw [hends.receiver], by rw [hends.receiver]⟩

/-- Settles O45, cause by cause and state by state; inside a frame the command's own part is read through the abort. -/
theorem lockLostHeaderFaultAndSilenceAbortTheFrame : Obligations.LockLostHeaderFaultAndSilenceAbortTheFrame := by
  refine ⟨fun s hs => ?_, fun s hs => ?_, fun s hs => ?_, fun s hs => ?_, fun s hs => ?_, fun s hs hrun => ?_⟩
  · refine ⟨abortFrame .signalLost s, ?_⟩
    obtain ⟨t, h⟩ := ends_of_effect (exec_lockLost s)
      (show lockLost s = some (loseLock (abortFrame .signalLost s)) by simp only [lockLost, hs])
    rw [loseLock_abortFrame] at h
    exact ⟨t, frameAborts_abortFrame .signalLost s, h⟩
  · refine ends_of_effect (exec_lockLost s) ?_
    rw [← loseLock_eq]
    rcases hs with hs | hs <;> simp only [lockLost, hs]
  · refine ⟨abortFrame .syncFault s, ?_⟩
    obtain ⟨t, h⟩ := ends_of_effect (exec_headerFault s)
      (show headerFault s = some (countedFault 1 0xff ((abortFrame .syncFault s).setReceiverState .hunting)) by
        simp only [headerFault, hs])
    rw [countedFault_hunting_abortFrame] at h
    exact ⟨t, frameAborts_abortFrame .syncFault s, h⟩
  · refine ends_of_effect (exec_headerFault s) ?_
    rw [← countedFault_hunting]
    simp only [headerFault, hs]
  · exact ends_of_effect (exec_headerFault s) (by simp only [headerFault, hs])
  · obtain ⟨t, h⟩ := ends_of_effect (exec_frameSilenceExpiry s)
      (show frameSilence s = some ((abortFrame .silence s).setReceiverState .betweenFrames) by
        simp only [frameSilence, hs, hrun, and_self, if_true])
    exact ⟨abortFrame .silence s, t, frameAborts_abortFrame .silence s, h⟩

/-- Settles O46: each of the four lines has the one effect of a stray line, with its own kind. -/
theorem strayLinesAreCountedAndReported : Obligations.StrayLinesAreCountedAndReported := by
  intro s
  dsimp only
  refine ⟨fun hs => ⟨fun depth row samples during => ?_, fun payload during => ?_, fun payload => ?_⟩,
    fun hs channel payload => ?_⟩
  · exact ends_of_effect (exec_ingressPixel ..) ((ingressPixel_outside hs ..).trans (congrArg some (strayLine_eq ..)))
  · exact ends_of_effect (exec_ingressInfo ..) ((ingressInfo_outside hs ..).trans (congrArg some (strayLine_eq ..)))
  · exact ends_of_effect (exec_ingressClose ..) ((ingressClose_outside hs).trans (congrArg some (strayLine_eq ..)))
  · exact ends_of_effect (exec_strayControlLine ..) ((strayControl_of_lock hs).trans (congrArg some (strayLine_eq ..)))

/-- Settles O47: the effect of a failed line, `failedLine_eq`, in its three cases. -/
theorem trailerFailureIsReportedAndItsRowsMissed : Obligations.TrailerFailureIsReportedAndItsRowsMissed := by
  intro h s hs
  have hends := ends_of_effect (exec_trailerFailure h s) (trailerFailure_of_lock hs h)
  rw [failedLine_eq] at hends
  dsimp only at hends ⊢
  refine ⟨fun hk hch => ?_, fun hk hf hr => ?_, fun hcmd hrow => ?_⟩
  · rw [if_pos ⟨hk, hch⟩, raiseEvent_countedFault] at hends
    exact hends
  · rw [if_neg (by simp [hk]), if_pos ⟨hk, hf, hr⟩, countedFault_eq] at hends
    exact hends
  · rw [if_neg hcmd, if_neg hrow, countedFault_eq] at hends
    exact hends

/-- Settles O49: inside a frame, at or above the expected row, `framePixel_of_le` at the two depths. -/
theorem pixelLineAdvancesTheFrame : Obligations.PixelLineAdvancesTheFrame := by
  intro depth row samples during s hs hr
  have hends := ends_of_effect (exec_ingressPixel depth row ⟨samples, during⟩ s) (ingressPixel_inFrame hs ..)
  rw [framePixel_of_le hr] at hends
  exact ⟨fun hd => by rwa [if_pos hd] at hends, fun hd => by rwa [if_neg hd] at hends⟩

/-- Settles O50: a row number has twelve bits, so the expected row 4096 is above every one. -/
theorem pixelLineBelowTheExpectedRowIsDiscarded : Obligations.PixelLineBelowTheExpectedRowIsDiscarded := by
  intro depth row samples during s hs hrow
  have hlt : row.toNat < s.receiver.expectedRow := by
    have := row.isLt
    omega
  refine ends_of_effect (exec_ingressPixel ..) ((ingressPixel_inFrame hs ..).trans ?_)
  rw [framePixel_of_lt hlt, countedFault_eq]

/-- Settles O52: the window frames end slot by slot, each on its context with CLIPPED set. -/
theorem closeEndsTheFrame : Obligations.CloseEndsTheFrame := by
  refine ⟨fun payload s hs => ?_, fun c code => rfl, fun code rows => ?_⟩
  · obtain ⟨t, ht, hends⟩ := ends_of_effect (exec_ingressClose payload s) (ingressClose_inFrame hs)
    exact ⟨frameClose s, t, ht, hends, windowsEnd_frameClose s⟩
  · rw [windowDoneDetail_toNat]
    cases code <;> rfl

end Sys2Proof.Machine
end

section
/-! SUPPORT. A command taken and served, and SELECT_BANK (Chapter 3), said once: what its argument check decides and one
equation for each row of Table 3.4. -/

namespace Sys2Proof.Machine

/-! ### Taking a command and checking its arguments -/

/-- A command that is taken ends its step from its owner's effect, with the owner's reply placed (R139, R140). -/
theorem ends_of_reply {c : Instr} {tag code : Byte} {owner : State → State × Reply} {s u : State} {r : Reply}
    (hexec : exec c s = conclude s (takeCommand tag code (some owner) s)) (hs : s.CanTake)
    (hreply : owner s.taken = (u, r)) :
    ∃ t, exec c s = .next t ∧ StepEnds (placeResponse ⟨tag, code, r⟩ u) t :=
  ends_of_effect hexec (by simp only [takeCommand_taken hs, hreply])

theorem fin4Of_of_lt {b : Byte} (hb : b.toNat < 4) : fin4Of b = some ⟨b.toNat, hb⟩ := dif_pos hb

theorem fin4Of_of_le {b : Byte} (hb : 4 ≤ b.toNat) : fin4Of b = none := dif_neg (Nat.not_lt.mpr hb)

/-- A single argument out of range is refused with its field, whatever the command would have done (R153). -/
theorem withArguments_require_none {α : Type} {arg : Option α} (harg : arg = none) (field : Byte)
    (serve : α → State → State × Reply) (s : State) :
    withArguments (require field arg) serve s = (s, ⟨.badArgument, field, []⟩) := by
  subst harg; rfl

theorem withArguments_require_some {α : Type} {arg : Option α} {a : α} (harg : arg = some a) (field : Byte)
    (serve : α → State → State × Reply) (s : State) :
    withArguments (require field arg) serve s = serve a s := by
  subst harg; rfl

/-! ### SELECT_BANK (R52) -/

theorem exec_selectBank (tag b : Byte) (s : State) :
    exec (.selectBank tag [b]) s =
      conclude s (takeCommand tag 0x12 (some (withArguments (require 1 (fin4Of b)) selectBank)) s) := rfl

section
variable {b : Fin 4} {s : State}

theorem selectBank_active_idle (hb : b = s.activeBank) (hp : s.pendingBank = none) :
    selectBank b s = (s, ⟨.noChange, 0, []⟩) := by
  simp only [selectBank, hb, hp, if_true]; rfl

theorem selectBank_active_pending (hb : b = s.activeBank) (hp : s.pendingBank ≠ none) :
    selectBank b s = ({ s with pendingBank := none }, ⟨.cancelled, 0, []⟩) := by
  simp only [selectBank, hb, hp, if_true, if_false]; rfl

theorem selectBank_other_pending (hb : b ≠ s.activeBank) (hp : s.pendingBank ≠ none) :
    selectBank b s = (s, ⟨.busy, 0, []⟩) := by
  simp only [selectBank, hb, hp, if_false, ne_eq, not_false_eq_true, if_true]; rfl

theorem selectBank_other_sound (hb : b ≠ s.activeBank) (hp : s.pendingBank = none)
    (hsound : bankFault s.banks[b] s.portEnabled = none) :
    selectBank b s = ({ s with pendingBank := some b }, ⟨.done, 0, []⟩) := by
  simp only [selectBank, hb, hp, if_false, ne_eq, not_true_eq_false, hsound]; rfl

theorem selectBank_other_faulty (hb : b ≠ s.activeBank) (hp : s.pendingBank = none) {j : Fin 16} {cause : Byte}
    (hfault : bankFault s.banks[b] s.portEnabled = some (j, cause)) :
    selectBank b s = (s, ⟨.invalidTable, BitVec.ofNat 8 j.val, [cause]⟩) := by
  simp only [selectBank, hb, hp, if_false, ne_eq, not_true_eq_false, hfault]; rfl

end

end Sys2Proof.Machine
end

section
/-! The statement about SELECT_BANK (Chapter 3), settled. -/

namespace Sys2Proof.Machine

/-- Settles O36: the first row of Table 3.4 is the argument check; each further row is one equation of `selectBank`,
read in the state as taken, which has the banks, the port enables and the two bank indices of the state before. -/
theorem selectBankFollowsItsTable : Obligations.SelectBankFollowsItsTable := by
  intro tag b s hs
  refine ⟨fun hb => ?_, fun hb => ?_⟩
  · exact ends_of_reply (exec_selectBank tag b s) hs (withArguments_require_none (fin4Of_of_le hb) ..)
  · have served {u : State} {r : Reply} (h : selectBank ⟨b.toNat, hb⟩ s.taken = (u, r)) :
        ∃ t, exec (.selectBank tag [b]) s = .next t ∧ StepEnds (placeResponse ⟨tag, 0x12, r⟩ u) t :=
      ends_of_reply (exec_selectBank tag b s) hs ((withArguments_require_some (fin4Of_of_lt hb) ..).trans h)
    rw [← taken_activeBank s, ← taken_pendingBank s, ← taken_banks s]
    refine ⟨fun ha hp => ?_, fun ha hp => ?_, fun ha hp => ?_, fun ha hp => ⟨fun hsound => ?_, fun j cause hfault => ?_⟩⟩
    · exact served (selectBank_active_idle ha hp)
    · exact served (selectBank_active_pending ha hp)
    · exact served (selectBank_other_pending ha hp)
    · exact served (selectBank_other_sound ha hp (by rwa [taken_portEnabled]))
    · exact served (selectBank_other_faulty ha hp (by rwa [taken_portEnabled]))

end Sys2Proof.Machine
end

section
/-! SUPPORT. Turns of the slots that rewrite a slot and then end its window frame or not (Chapter 4): the rewritings of all
slots may be taken first and the endings after them, which is how the statements about missed rows and DISARM speak. -/

namespace Sys2Proof.Machine

/-! ### A slot rewritten by its entry and itself -/

/-- Slot i rewritten by a change that reads its governing entry and the slot alone. -/
def State.changeSlot (s : State) (change : Fin 16 → Entry → Slot → Slot) (i : Fin 16) : State :=
  s.setSlot i (change i (s.governing i) (s.slot i))

/-- Every slot rewritten so. -/
def State.changeSlots (s : State) (change : Fin 16 → Entry → Slot → Slot) : State :=
  forSlots (fun i v => v.changeSlot change i) s

section
variable {change : Fin 16 → Entry → Slot → Slot}

theorem changeSlot_slot (s : State) (i j : Fin 16) :
    (s.changeSlot change i).slot j = if j = i then change i (s.governing i) (s.slot i) else s.slot j :=
  slot_setSlot ..

@[simp] theorem changeSlot_slot_self (s : State) (i : Fin 16) :
    (s.changeSlot change i).slot i = change i (s.governing i) (s.slot i) := by simp [changeSlot_slot]

@[simp] theorem changeSlot_governing (s : State) (i j : Fin 16) :
    (s.changeSlot change i).governing j = s.governing j := rfl

/-- A change that leaves the slot as it is leaves the state as it is. -/
theorem changeSlot_of_eq {s : State} {i : Fin 16} (h : change i (s.governing i) (s.slot i) = s.slot i) :
    s.changeSlot change i = s := by rw [State.changeSlot, h, setSlot_self]

/-- Only the slots are rewritten. -/
theorem changeSlots_rest (s : State) : s.changeSlots change = { s with slots := (s.changeSlots change).slots } := by
  have h : ∃ x, s.changeSlots change = { s with slots := x } :=
    forSlots_invariant (P := fun v => ∃ x, v = { s with slots := x })
      (by rintro i v ⟨x, rfl⟩; exact ⟨_, rfl⟩) ⟨s.slots, rfl⟩
  obtain ⟨x, hx⟩ := h
  rw [hx]

theorem changeSlots_governing (s : State) (i : Fin 16) : (s.changeSlots change).governing i = s.governing i := by
  have hrest := changeSlots_rest (change := change) s
  generalize s.changeSlots change = v at hrest ⊢
  rw [hrest]; rfl

theorem changeSlots_slot (s : State) (i : Fin 16) :
    (s.changeSlots change).slot i = change i (s.governing i) (s.slot i) := by
  refine forSlots_slot (P := fun v => ∀ j, v.governing j = s.governing j) (f := fun i v => v.changeSlot change i)
    (g := fun i => change i (s.governing i)) ?_ ?_ ?_ (fun _ => rfl) i
  · intro i v hv j
    rw [changeSlot_governing, hv]
  · intro i j v _ hj
    rw [changeSlot_slot, if_neg hj]
  · intro i v hv
    rw [changeSlot_slot_self, hv]

end

theorem setSlot_comm {i j : Fin 16} (hij : i ≠ j) (s : State) (t u : Slot) :
    (s.setSlot i t).setSlot j u = (s.setSlot j u).setSlot i t := by
  simp only [State.setSlot, Vector.set_comm t u (fun h => hij (Fin.ext h))]

theorem settleSlot_setSlot {i j : Fin 16} (hij : i ≠ j) (s : State) (t : Slot) :
    settleSlot i (s.setSlot j t) = (settleSlot i s).setSlot j t := by
  simp only [settleSlot, slot_setSlot, if_neg hij, setSlot_governing]
  exact setSlot_comm hij.symm s t _

theorem raiseEvent_setSlot (c : EventClass) (sub : Subject) (hi lo : Byte) (j : Fin 16) (s : State) (t : Slot) :
    raiseEvent c sub hi lo (s.setSlot j t) = (raiseEvent c sub hi lo s).setSlot j t := by
  rw [raiseEvent_eq, raiseEvent_eq]; rfl

/-- The end of one slot's window frame and the writing of another slot can change places. -/
theorem endWindow_setSlot {i j : Fin 16} (hij : i ≠ j) (code : CompletionCode) (s : State) (t : Slot) :
    endWindow code i (s.setSlot j t) = (endWindow code i s).setSlot j t := by
  unfold endWindow
  rw [slot_setSlot, if_neg hij]
  cases (s.slot i).state with
  | active c =>
    dsimp only
    rw [← settleSlot_setSlot hij, ← raiseEvent_setSlot]
    rfl
  | _ => rfl

theorem endWindow_slot_of_ne {i j : Fin 16} (hij : i ≠ j) (code : CompletionCode) (s : State) :
    (endWindow code i s).slot j = s.slot j := by
  rw [(windowsEnd_endWindow code i s).slot j]
  cases (s.slot i).context <;> simp [hij]

theorem endWindow_changeSlot {change : Fin 16 → Entry → Slot → Slot} {i j : Fin 16} (hij : i ≠ j)
    (code : CompletionCode) (s : State) :
    endWindow code i (s.changeSlot change j) = (endWindow code i s).changeSlot change j := by
  rw [State.changeSlot, State.changeSlot, endWindow_setSlot hij, endWindow_slot_of_ne hij,
    (windowsEnd_endWindow code i s).governing]

/-! ### Two acts of each turn taken one after the other -/

/-- Where an act on one slot's turn and another act on another slot's turn can change places, all the first acts may come
before all the last ones. -/
theorem forSlots_comp {first last : Fin 16 → State → State}
    (hcomm : ∀ i j s, i ≠ j → first j (last i s) = last i (first j s)) (s : State) :
    forSlots (fun i s => last i (first i s)) s = forSlots last (forSlots first s) := by
  have hpass : ∀ (i : Fin 16) (l : List (Fin 16)), i ∉ l → ∀ s,
      l.foldl (fun s j => first j s) (last i s) = last i (l.foldl (fun s j => first j s) s) := by
    intro i l
    induction l with
    | nil => exact fun _ _ => rfl
    | cons j l ih =>
      intro hi s
      obtain ⟨hij, hil⟩ := List.ne_and_not_mem_of_not_mem_cons hi
      rw [List.foldl_cons, List.foldl_cons, hcomm i j s hij, ih hil]
  have key : ∀ (l : List (Fin 16)), l.Nodup → ∀ s,
      l.foldl (fun s i => last i (first i s)) s =
        l.foldl (fun s i => last i s) (l.foldl (fun s i => first i s) s) := by
    intro l
    induction l with
    | nil => exact fun _ _ => rfl
    | cons i l ih =>
      intro hd s
      obtain ⟨hi, hl⟩ := List.nodup_cons.mp hd
      simp only [List.foldl_cons]
      rw [ih hl, hpass i l hi]
  exact key allSlots (List.nodup_finRange 16) s

/-! ### Window frames that end by a test of their own slot -/

/-- Slot i's window frame ends with a code if the slot, under its governing entry, meets a test. -/
def endWindowIf (code : CompletionCode) (test : Fin 16 → Entry → Slot → Bool) (i : Fin 16) (s : State) : State :=
  if test i (s.governing i) (s.slot i) then endWindow code i s else s

section
variable {code : CompletionCode} {test : Fin 16 → Entry → Slot → Bool}

theorem endWindowIf_governing (i j : Fin 16) (s : State) :
    (endWindowIf code test i s).governing j = s.governing j := by
  unfold endWindowIf
  split
  · exact (windowsEnd_endWindow code i s).governing j
  · rfl

theorem endWindowIf_slot_of_ne {i j : Fin 16} (hij : i ≠ j) (s : State) :
    (endWindowIf code test i s).slot j = s.slot j := by
  unfold endWindowIf
  split
  · exact endWindow_slot_of_ne hij code s
  · rfl

theorem endWindowIf_changeSlot {change : Fin 16 → Entry → Slot → Slot} {i j : Fin 16} (hij : i ≠ j) (s : State) :
    endWindowIf code test i (s.changeSlot change j) = (endWindowIf code test i s).changeSlot change j := by
  simp only [endWindowIf, changeSlot_governing, changeSlot_slot, if_neg hij, endWindow_changeSlot hij, apply_ite
    (State.changeSlot · change j)]

/-- No turn changes what the test of a later slot reads, so the slots that meet it can be named beforehand. -/
theorem windowsEnd_forSlots_endWindowIf (s : State) :
    WindowsEnd code (s.inProgress fun i => test i (s.governing i) (s.slot i)) s
      (forSlots (endWindowIf code test) s) := by
  have key : ∀ (l : List (Fin 16)), l.Nodup → ∀ v : State,
      (∀ i ∈ l, v.governing i = s.governing i ∧ v.slot i = s.slot i) →
      l.foldl (fun v i => endWindowIf code test i v) v =
        l.foldl (fun v i => if test i (s.governing i) (s.slot i) then endWindow code i v else v) v := by
    intro l
    induction l with
    | nil => exact fun _ _ _ => rfl
    | cons i l ih =>
      intro hd v hv
      obtain ⟨hi, hl⟩ := List.nodup_cons.mp hd
      obtain ⟨hgov, hslot⟩ := hv i List.mem_cons_self
      have hrest : ∀ j ∈ l, (endWindowIf code test i v).governing j = s.governing j ∧
          (endWindowIf code test i v).slot j = s.slot j := by
        intro j hj
        have hij : i ≠ j := fun h => hi (h ▸ hj)
        rw [endWindowIf_governing, endWindowIf_slot_of_ne hij]
        exact hv j (List.mem_cons_of_mem _ hj)
      rw [List.foldl_cons, List.foldl_cons, ih hl _ hrest, endWindowIf, hgov, hslot]
  have h := windowsEnd_forSlots code (fun i => test i (s.governing i) (s.slot i)) s
  rwa [forSlots, ← key allSlots (List.nodup_finRange 16) s fun _ _ => ⟨rfl, rfl⟩] at h

/-- Slot after slot, where a turn rewrites its slot and then ends the window frame if the slot so rewritten meets a test:
all are rewritten, and then those window frames end. -/
theorem windowsEnd_changeSlots {change : Fin 16 → Entry → Slot → Slot} {turn : Fin 16 → State → State}
    (hturn : ∀ i v, turn i v = endWindowIf code test i (v.changeSlot change i)) (s : State) :
    WindowsEnd code
      ((s.changeSlots change).inProgress fun i => test i (s.governing i) ((s.changeSlots change).slot i))
      (s.changeSlots change) (forSlots turn s) := by
  have hsplit : forSlots turn s = forSlots (endWindowIf code test) (s.changeSlots change) := by
    rw [show turn = fun i v => endWindowIf code test i (v.changeSlot change i) from funext₂ hturn]
    exact forSlots_comp (first := fun i v => v.changeSlot change i)
      (fun i j v hij => (endWindowIf_changeSlot hij v).symm) s
  have h := windowsEnd_forSlots_endWindowIf (code := code) (test := test) (s.changeSlots change)
  simp only [changeSlots_governing] at h
  rwa [hsplit]

end

end Sys2Proof.Machine
end

section
/-! SUPPORT. Openings, missed and taken rows, arming and trigger edges (Chapter 4), said once: one equation for each act on
one slot, as a rewriting of that slot where it is one. -/

namespace Sys2Proof.Machine

/-! ### Openings (R70, R71) -/

theorem accepting_iff (q : Port) :
    q.accepting = true ↔ q.state = .idle ∨ q.state = .sending ∨ q.state = .held := by
  unfold Port.accepting
  cases q.state <;> simp

theorem refuseOpening_eq (reason : Byte) (i : Fin 16) (s : State) :
    refuseOpening reason i s =
      { s.setSlot i { s.slot i with skipped := satInc (s.slot i).skipped } with
        notify := s.notify.takeAll
          [s.eventOf .windowSkipped (.slot i) reason (BitVec.ofNat 8 (s.governing i).port.val)] } := by
  rw [refuseOpening, raiseEvent_eq]; rfl

section
variable {i : Fin 16} {s : State}

theorem askOpening_of_not_ready (h : (s.slot i).state ≠ .ready) : askOpening i s = s := if_neg h

theorem askOpening_granted (h : (s.slot i).state = .ready) (haccepts : (s.port (s.governing i).port).accepting = true)
    (hplaces : (s.port (s.governing i).port).queued + (s.port (s.governing i).port).reservations ≤ 126) :
    askOpening i s = grantOpening i s := by
  simp [askOpening, h, haccepts, hplaces]

/-- A refusal names an unaccepting port before a full queue (Table 1.15). -/
theorem askOpening_refused (h : (s.slot i).state = .ready)
    (hrefuses : ¬((s.port (s.governing i).port).accepting = true ∧
      (s.port (s.governing i).port).queued + (s.port (s.governing i).port).reservations ≤ 126)) :
    askOpening i s = refuseOpening (if (s.port (s.governing i).port).accepting then 2 else 1) i s := by
  by_cases ha : (s.port (s.governing i).port).accepting
  · have hfull : ¬(s.port (s.governing i).port).queued + (s.port (s.governing i).port).reservations ≤ 126 :=
      fun hp => hrefuses ⟨ha, hp⟩
    simp [askOpening, h, ha, hfull]
  · simp [askOpening, h, ha]

end

/-! ### Missed rows (R75, R76) -/

/-- A slot once a row has been missed, before the end test: a window frame that covers the row is DEFICIENT. -/
def Slot.missed (r : Nat) (t : Slot) : Slot :=
  match t.state with
  | .active c => { t with state := .active { c with deficient := c.deficient || c.covers r } }
  | _ => t

/-- The end test of a slot (R76). -/
def Slot.doneBy (r : Nat) (t : Slot) : Bool :=
  match t.context with
  | some c => decide (c.lastCoveredRow ≤ r)
  | none => false

theorem endTest_eq (r : Nat) (i : Fin 16) (s : State) :
    endTest r i s = endWindowIf .complete (fun _ _ t => t.doneBy r) i s := by
  cases hs : (s.slot i).state with
  | active c => simp only [endTest, endWindowIf, Slot.doneBy, Slot.context, hs, decide_eq_true_eq]
  | _ => simp [endTest, endWindowIf, Slot.doneBy, Slot.context, hs]

/-- A missed row for one slot marks its window frame and then puts it to the end test (R75). -/
theorem missSlot_eq (r : Nat) (i : Fin 16) (s : State) :
    missSlot r i s =
      endWindowIf .complete (fun _ _ t => t.doneBy r) i (s.changeSlot (fun _ _ t => t.missed r) i) := by
  rw [← endTest_eq]
  cases hs : (s.slot i).state with
  | active c =>
    have hmark : (if c.covers r then updateContext i (fun c => { c with deficient := true }) s else s) =
        s.changeSlot (fun _ _ t => t.missed r) i := by
      by_cases hc : c.covers r
      · simp [hc, updateContext, hs, State.changeSlot, Slot.missed]
      · rw [if_neg hc, changeSlot_of_eq]
        simp only [Slot.missed, hs, hc, Bool.or_false]
        rw [← hs]
    simp only [missSlot, hs, hmark]
  | _ =>
    have hsame : s.changeSlot (fun _ _ t => t.missed r) i = s := changeSlot_of_eq (by simp only [Slot.missed, hs])
    simp only [missSlot, endTest, hs, hsame]

/-- One missed row more comes after the rows before it (R75). -/
theorem missRows_succ (first count : Nat) (s : State) :
    missRows first (count + 1) s = missRow (first + count) (missRows first count s) := by
  simp [missRows, List.range'_concat]

/-! ### Taken rows (R74) and the events between turns (R96) -/

/-- A taken row for an ACTIVE slot before the end test: a row it covers is cut, and the ports go on (R74, R89). -/
def afterCut (depth : BitVec 2) (r : Nat) (samples : List Half) (i : Fin 16) (c : WindowContext) (s : State) : State :=
  if c.covers r then settle (cutSegment depth r samples i c s) else s

theorem takeSlot_of_active {i : Fin 16} {s : State} {c : WindowContext} (h : (s.slot i).state = .active c)
    (depth : BitVec 2) (r : Nat) (samples : List Half) :
    takeSlot depth r samples i s = endTest r i (afterCut depth r samples i c s) := by
  simp only [takeSlot, h, afterCut]

theorem takeSlot_of_not_active {i : Fin 16} {s : State} (h : ∀ c, (s.slot i).state ≠ .active c)
    (depth : BitVec 2) (r : Nat) (samples : List Half) : takeSlot depth r samples i s = s := by
  unfold takeSlot
  split
  · exact absurd ‹_› (h _)
  · rfl

/-- The last covered row of a slot's context, which the end test reads and a cut never changes. -/
def Slot.lastRow (t : Slot) : Option Nat := t.context.map (·.lastCoveredRow)

theorem lastRow_of_active {t : Slot} {c : WindowContext} (h : t.state = .active c) :
    t.lastRow = some c.lastCoveredRow := by
  simp only [Slot.lastRow, Slot.context, h, Option.map_some]

theorem updateContext_lastRow {f : WindowContext → WindowContext}
    (hf : ∀ c, (f c).lastCoveredRow = c.lastCoveredRow) (i : Fin 16) (s : State) :
    ((updateContext i f s).slot i).lastRow = (s.slot i).lastRow := by
  unfold updateContext
  split
  · rename_i c hs
    rw [lastRow_of_active hs, slot_setSlot, if_pos rfl, ← hf c]
    rfl
  · rfl

theorem dropRow_lastRow (cause : Byte) (i : Fin 16) (p : Fin 4) (s : State) :
    ((dropRow cause i p s).slot i).lastRow = (s.slot i).lastRow := by
  rw [← updateContext_lastRow (f := fun c => { c with deficient := true }) (fun _ => rfl) i s, dropRow, raiseEvent_eq]
  rfl

theorem claim_slot {p : Fin 4} {k : Nat} {s u : State} {ids : List Nat} (h : claim p k s = .ok (ids, u)) (i : Fin 16) :
    u.slot i = s.slot i := by
  rw [claim_eq] at h
  split at h
  · split at h
    · cases h; rfl
    · cases h
  · cases h

theorem cutSegment_lastRow (depth : BitVec 2) (r : Nat) (samples : List Half) (i : Fin 16) (c : WindowContext)
    (s : State) : ((cutSegment depth r samples i c s).slot i).lastRow = (s.slot i).lastRow := by
  unfold cutSegment
  dsimp only
  have hclip : ((if (c.segment samples).length < c.outputWidth then
      updateContext i (fun c => { c with clipped := true }) s else s).slot i).lastRow = (s.slot i).lastRow := by
    split
    · rw [updateContext_lastRow]
      exact fun _ => rfl
    · rfl
  rw [← hclip]
  generalize (if (c.segment samples).length < c.outputWidth then _ else s) = v
  split
  · exact dropRow_lastRow ..
  · rename_i ids u hclaim
    rw [updateContext_lastRow, enqueue, setPort_slot, claim_slot hclaim]
    exact fun _ => rfl

theorem afterCut_lastRow {i : Fin 16} {s : State} {c : WindowContext} (h : (s.slot i).state = .active c)
    (depth : BitVec 2) (r : Nat) (samples : List Half) :
    ((afterCut depth r samples i c s).slot i).lastRow = some c.lastCoveredRow := by
  rw [afterCut, ← lastRow_of_active h]
  split
  · rw [(stepEnds_settle _).slot, cutSegment_lastRow]
  · rfl

section
variable {i : Fin 16} {s : State} {last r : Nat} (h : (s.slot i).lastRow = some last)
include h

theorem endTest_of_le (hr : last ≤ r) : endTest r i s = endWindow .complete i s := by
  unfold endTest
  split
  · rename_i c hs
    rw [lastRow_of_active hs, Option.some.injEq] at h
    exact if_pos (h ▸ hr)
  · rename_i hs
    cases hs' : (s.slot i).state <;> simp_all [Slot.lastRow, Slot.context]

theorem endTest_of_lt (hr : r < last) : endTest r i s = s := by
  unfold endTest
  split
  · rename_i c hs
    rw [lastRow_of_active hs, Option.some.injEq] at h
    exact if_neg (by omega)
  · rfl

end

/-- What an event does inside a row is what its own command does (R96; log entry 21). -/
theorem conclude_eventEffect (e : RowEvent) (s : State) : conclude s (eventEffect e s) = .next (meanwhile e s) := by
  unfold conclude meanwhile
  cases eventEffect e s <;> rfl

/-! ### Arm counts (R65, R81, R82, R84) -/

theorem isArmed_iff (e : Entry) : e.isArmed = true ↔ e.enable = true ∧ e.mode = .armed := by simp [Entry.isArmed]

/-- A slot with a new arm count, settled under its entry unless it is ACTIVE (R65). -/
def Slot.withArmCount (e : Entry) (count : Nat) (t : Slot) : Slot :=
  { t with armCount := count, state := if t.state.isActive then t.state else settledState e count }

theorem settleUnlessActive_armCount (i : Fin 16) (s : State) (count : Nat) :
    settleUnlessActive i (s.setSlot i { s.slot i with armCount := count }) =
      s.setSlot i ((s.slot i).withArmCount (s.governing i) count) := by
  by_cases h : (s.slot i).state.isActive <;> simp [settleUnlessActive, settleSlot, Slot.withArmCount, h]

/-! ### Arguments in range and out of it -/

theorem inRange_of_mem {low high n : Nat} (hl : low ≤ n) (hh : n ≤ high) : inRange low high n = some n :=
  if_pos ⟨hl, hh⟩

theorem inRange_of_not_mem {low high n : Nat} (h : ¬(low ≤ n ∧ n ≤ high)) : inRange low high n = none := if_neg h

theorem flagOf_of_le {b : Byte} (h : b.toNat ≤ 1) : flagOf b = some (b == 1) := by
  obtain rfl | rfl : b = 0 ∨ b = 1 := by bv_omega
  · rfl
  · rfl

theorem flagOf_of_lt {b : Byte} (h : 1 < b.toNat) : flagOf b = none := by
  have h0 : b ≠ 0 := by bv_omega
  have h1 : b ≠ 1 := by bv_omega
  rw [flagOf, if_neg h0, if_neg h1]

/-! ### ARM (R81) -/

/-- A slot once ARM with a mask and a count has come to it. -/
def armedBy (mask : Half) (count : Nat) (i : Fin 16) (e : Entry) (t : Slot) : Slot :=
  if masked mask i && e.isArmed then t.withArmCount e (min (t.armCount + count) 15) else t

theorem armSlot_eq (mask : Half) (count : Nat) (i : Fin 16) (s : State) :
    armSlot mask count i s = s.changeSlot (armedBy mask count) i := by
  by_cases h : (masked mask i && (s.governing i).isArmed) = true
  · simp only [armSlot, addArm, State.changeSlot, armedBy, h, if_true, settleUnlessActive_armCount]
  · rw [armSlot, if_neg h, changeSlot_of_eq (if_neg h)]

theorem forSlots_armSlot (mask : Half) (count : Nat) (s : State) :
    forSlots (armSlot mask count) s = s.changeSlots (armedBy mask count) :=
  congrArg (forSlots · s) (funext₂ (armSlot_eq mask count))

/-- A slot mask gathered from a condition on the slots has the bits of the slots that meet it. -/
theorem getLsbD_foldl_mask (p : Fin 16 → Bool) (j : Fin 16) (l : List (Fin 16)) (m : Half) :
    (l.foldl (fun m i => if p i then m ||| (1#16 <<< i.val) else m) m).getLsbD j.val =
      (m.getLsbD j.val || (decide (j ∈ l) && p j)) := by
  induction l generalizing m with
  | nil => simp
  | cons i l ih =>
    have hbit : (1#16 <<< i.val).getLsbD j.val = decide (j = i) := by
      simp only [BitVec.getLsbD_shiftLeft, BitVec.getLsbD_one, Fin.ext_iff]
      have := i.isLt
      have := j.isLt
      grind
    have hor : (if p i then m ||| (1#16 <<< i.val) else m).getLsbD j.val =
        (m.getLsbD j.val || (decide (j = i) && p i)) := by
      cases p i
      · simp
      · rw [if_pos rfl, BitVec.getLsbD_or, hbit, Bool.and_true]
    rw [List.foldl_cons, ih, hor]
    by_cases hij : j = i
    · subst hij
      cases p j <;> simp
    · simp [hij]

theorem getLsbD_unarmedMask (mask : Half) (s : State) (j : Fin 16) :
    (unarmedMask mask s).getLsbD j.val = (masked mask j && !(s.governing j).isArmed) := by
  rw [unarmedMask, getLsbD_foldl_mask]
  simp [allSlots]

theorem exec_arm (tag hi lo n : Byte) (s : State) :
    exec (.arm tag [hi, lo, n]) s =
      conclude s (takeCommand tag 0x20
        (some (withArguments (require 2 (inRange 1 15 n.toNat)) (armSlots (halfOf hi lo)))) s) := rfl

theorem armSlots_pending {s : State} (h : s.pendingBank ≠ none) (mask : Half) (count : Nat) :
    armSlots mask count s = (s, ⟨.bankPending, 0, []⟩) := by
  simp [armSlots, Option.isSome_iff_ne_none, h, answer, Reply.plain]

theorem armSlots_idle {s : State} (h : s.pendingBank = none) (mask : Half) (count : Nat) :
    armSlots mask count s =
      (s.changeSlots (armedBy mask count), ⟨.done, 0, halfBytes (unarmedMask mask s)⟩) := by
  simp [armSlots, h, forSlots_armSlot]

/-! ### DISARM (R82) -/

/-- A slot once DISARM with a mask has cleared its arm count, its window frame still in progress. -/
def disarmedBy (mask : Half) (i : Fin 16) (e : Entry) (t : Slot) : Slot :=
  if masked mask i && e.isArmed then t.withArmCount e 0 else t

theorem settledState_not_active (e : Entry) (count : Nat) : (settledState e count).isActive = false := by
  unfold settledState
  cases e.enable <;> cases e.mode <;> by_cases h : count = 0 <;> simp [h, SlotState.isActive]

theorem endWindow_of_not_active {i : Fin 16} {s : State} (h : (s.slot i).state.isActive = false)
    (code : CompletionCode) : endWindow code i s = s := by
  unfold endWindow
  split
  · rename_i hs; simp [hs, SlotState.isActive] at h
  · rfl

/-- DISARM for one slot clears its arm count and then, with cut, ends its window frame (R82). -/
theorem disarmSlot_eq (mask : Half) (cut : Bool) (i : Fin 16) (s : State) :
    disarmSlot mask cut i s =
      endWindowIf .cut (fun i e _ => masked mask i && e.isArmed && cut) i (s.changeSlot (disarmedBy mask) i) := by
  by_cases h : (masked mask i && (s.governing i).isArmed) = true
  · have hstep : disarmSlot mask cut i s =
        if (s.slot i).state.isActive then
          if cut then endWindow .cut i (s.changeSlot (disarmedBy mask) i) else s.changeSlot (disarmedBy mask) i
        else s.changeSlot (disarmedBy mask) i := by
      rw [State.changeSlot, disarmedBy, if_pos h, ← settleUnlessActive_armCount]
      by_cases ha : (s.slot i).state.isActive <;> simp [disarmSlot, h, ha, settleUnlessActive]
    have htest : (masked mask i && (s.governing i).isArmed && cut) = cut := by rw [h, Bool.true_and]
    rw [hstep, endWindowIf, changeSlot_governing, htest]
    by_cases ha : (s.slot i).state.isActive
    · rw [if_pos ha]
    · have hgone : ((s.changeSlot (disarmedBy mask) i).slot i).state.isActive = false := by
        simp [disarmedBy, h, Slot.withArmCount, ha, settledState_not_active]
      rw [if_neg ha, endWindow_of_not_active hgone, ite_self]
  · have hf := Bool.eq_false_iff.mpr h
    rw [disarmSlot, if_neg h, changeSlot_of_eq (if_neg h), endWindowIf, hf, Bool.false_and, if_neg Bool.false_ne_true]

theorem exec_disarm (tag hi lo cut : Byte) (s : State) :
    exec (.disarm tag [hi, lo, cut]) s =
      conclude s (takeCommand tag 0x21 (some (withArguments (require 2 (flagOf cut)) (disarmSlots (halfOf hi lo)))) s) :=
  rfl

/-! ### Trigger edges (R83, R84) -/

theorem exec_triggerEdge (n : Fin 4) (s : State) : exec (.triggerEdge n) s = conclude s (triggerEdge n s) := rfl

theorem triggerEdge_of_edges {n : Fin 4} {s : State} {d : ChangeDirection} {rest : List ChangeDirection}
    (h : (s.line n).edges = d :: rest) :
    triggerEdge n s = some (forSlots (edgeSlot n) (s.setLine n { s.line n with edges := rest })) := by
  simp only [triggerEdge, h]

/-- An ACTIVE slot keeps its state when its arm count changes. -/
theorem withArmCount_of_active {t : Slot} (h : t.state.isActive = true) (e : Entry) (count : Nat) :
    t.withArmCount e count = { t with armCount := count } := by
  simp only [Slot.withArmCount, h, if_true]

/-- With an arm count above 0 under an ARMED entry a slot that is not ACTIVE is READY (R65). -/
theorem withArmCount_ready {t : Slot} {e : Entry} (h : t.state.isActive = false) (he : e.isArmed = true) (count : Nat) :
    t.withArmCount e (count + 1) = { t with armCount := count + 1, state := .ready } := by
  obtain ⟨henable, hmode⟩ := (isArmed_iff e).mp he
  simp [Slot.withArmCount, h, settledState, henable, hmode]

theorem endWindow_slot_self {i : Fin 16} {s : State} (h : (s.slot i).state.isActive = true) (code : CompletionCode) :
    (endWindow code i s).slot i =
      { s.slot i with state := settledState (s.governing i) (s.slot i).armCount } := by
  rw [(windowsEnd_endWindow code i s).slot i]
  cases hs : (s.slot i).state with
  | active c => simp [Slot.context, hs]
  | _ => simp [hs, SlotState.isActive] at h

section
variable {n : Fin 4} {i : Fin 16} {s : State}

theorem takeEdge_of_no_cut (h : ¬((s.slot i).state.isActive = true ∧ (s.governing i).policy = .restart)) :
    takeEdge i s = s.setSlot i ((s.slot i).withArmCount (s.governing i) ((s.slot i).armCount + 1)) := by
  rw [takeEdge, if_neg h]
  exact settleUnlessActive_armCount ..

/-- Under policy RESTART the window frame in progress is cut, and the slot, no longer ACTIVE, becomes READY (R84). -/
theorem takeEdge_of_cut (harmed : (s.governing i).isArmed = true) (hactive : (s.slot i).state.isActive = true)
    (hpolicy : (s.governing i).policy = .restart) :
    takeEdge i s = (endWindow .cut i s).setSlot i
      { (endWindow .cut i s).slot i with armCount := (s.slot i).armCount + 1, state := .ready } := by
  have hgov : (endWindow .cut i s).governing i = s.governing i := (windowsEnd_endWindow .cut i s).governing i
  have hslot := endWindow_slot_self hactive .cut
  have hended : ((endWindow .cut i s).slot i).state.isActive = false := by
    rw [hslot]; exact settledState_not_active ..
  have hcount : ((endWindow .cut i s).slot i).armCount = (s.slot i).armCount := by rw [hslot]
  rw [takeEdge, if_pos ⟨hactive, hpolicy⟩]
  dsimp only
  rw [settleUnlessActive_armCount, hgov, hcount, withArmCount_ready hended harmed]

theorem isArmed_and_trigger_iff (e : Entry) (n : Fin 4) :
    (e.isArmed = true ∧ e.trigger = some n) ↔ (e.enable = true ∧ e.mode = .armed ∧ e.trigger = some n) := by
  rw [isArmed_iff, and_assoc]

theorem edgeSlot_unmatched (h : ¬((s.governing i).isArmed = true ∧ (s.governing i).trigger = some n)) :
    edgeSlot n i s = s := if_neg h

variable (h : (s.governing i).isArmed = true ∧ (s.governing i).trigger = some n)
include h

/-- The hold-off counter refuses first (R83). -/
theorem edgeSlot_holdOff (hhold : 0 < (s.slot i).holdOff) :
    edgeSlot n i s = raiseEvent .triggerRefused (.slot i) 1 (BitVec.ofNat 8 n.val) s := by
  rw [edgeSlot, if_pos h, if_pos hhold]

theorem edgeSlot_overrun (hhold : (s.slot i).holdOff = 0) (hcount : (s.slot i).armCount = 15) :
    edgeSlot n i s = raiseEvent .triggerRefused (.slot i) 2 (BitVec.ofNat 8 n.val) s := by
  rw [edgeSlot, if_pos h, if_neg (by omega), if_pos hcount]

theorem edgeSlot_taken (hhold : (s.slot i).holdOff = 0) (hcount : (s.slot i).armCount ≠ 15) :
    edgeSlot n i s = takeEdge i s := by
  rw [edgeSlot, if_pos h, if_neg (by omega), if_neg hcount]

end

end Sys2Proof.Machine
end

section
/-! The statements about window slots and arming (Chapter 4), settled. -/

namespace Sys2Proof.Machine

/-- Settles O21: `askOpening` in its three cases, the granted slot and OPEN record being those of the model. -/
theorem readySlotOpensOrIsSkipped : Obligations.ReadySlotOpensOrIsSkipped := by
  intro i s
  dsimp only
  refine ⟨askOpening_of_not_ready, fun hready haccepts hplaces => ?_, fun hready hrefuses => ?_⟩
  · rw [askOpening_granted hready ((accepting_iff _).mpr haccepts) hplaces]
    rfl
  · rw [askOpening_refused hready (by rwa [accepting_iff]), refuseOpening_eq]
    simp only [accepting_iff, satInc]

/-- Settles O23: all marks may be taken before all endings. -/
theorem missedRowMarksAndEndsWindowFrames : Obligations.MissedRowMarksAndEndsWindowFrames := by
  refine ⟨fun r s => ?_, fun r s => rfl, missRows_succ⟩
  have hends := windowsEnd_changeSlots (missSlot_eq r) s
  have hslot := changeSlots_slot (change := fun _ _ t => t.missed r) s
  have hrest := changeSlots_rest (change := fun _ _ t => t.missed r) s
  generalize s.changeSlots (fun _ _ t => t.missed r) = m at hends hslot hrest
  exact ⟨m, hslot, hrest, hends⟩

/-- Settles O37: the slots are rewritten one by one, and the mask returned has the other masked slots. -/
theorem armAddsToEachMaskedArmedSlot : Obligations.ArmAddsToEachMaskedArmedSlot := by
  intro tag hi lo n s hs
  dsimp only
  have harms (i : Fin 16) : (masked (halfOf hi lo) i && (s.governing i).isArmed) = true ↔
      (hi ++ lo).getLsbD i.val = true ∧ (s.governing i).enable = true ∧ (s.governing i).mode = .armed := by
    rw [Bool.and_eq_true, isArmed_iff]
    rfl
  refine ⟨fun h1 h15 hp => ?_, fun h1 h15 hp => ?_, fun hn => ?_⟩
  · have hserved := (withArguments_require_some (inRange_of_mem h1 h15) 2 (armSlots (halfOf hi lo)) s.taken).trans
      (armSlots_idle ((taken_pendingBank s).trans hp) ..)
    obtain ⟨t, ht, hends⟩ := ends_of_reply (exec_arm tag hi lo n s) hs hserved
    refine ⟨_, _, t, ht, hends, fun i => ?_, fun i hi' => ?_, fun i hi' => ?_, changeSlots_rest _⟩
    · rw [getLsbD_unarmedMask, taken_governing, ← harms]
      change _ ↔ masked (halfOf hi lo) i = true ∧ _
      cases masked (halfOf hi lo) i <;> simp
    · rw [changeSlots_slot, taken_governing, taken_slot, armedBy, if_pos ((harms i).mpr hi')]
      rfl
    · rw [changeSlots_slot, taken_governing, taken_slot, armedBy, if_neg (mt (harms i).mp hi')]
  · exact ends_of_reply (exec_arm tag hi lo n s) hs
      ((withArguments_require_some (inRange_of_mem h1 h15) ..).trans
        (armSlots_pending (by rwa [taken_pendingBank]) ..))
  · have hout : inRange 1 15 n.toNat = none := inRange_of_not_mem (by
      rcases hn with rfl | hn
      · simp
      · omega)
    exact ends_of_reply (exec_arm tag hi lo n s) hs (withArguments_require_none hout ..)

/-- Settles O38: all arm counts may be cleared before all cuts. -/
theorem disarmClearsCountsAndCuts : Obligations.DisarmClearsCountsAndCuts := by
  intro tag hi lo cut s hs
  dsimp only
  have hdisarms (i : Fin 16) : ((hi ++ lo).getLsbD i.val && (s.governing i).enable &&
      decide ((s.governing i).mode = .armed)) = (masked (halfOf hi lo) i && (s.governing i).isArmed) :=
    Bool.and_assoc ..
  simp only [hdisarms]
  refine ⟨fun hcut => ?_, fun hcut => ?_⟩
  · have hflag : flagOf cut = some (cut == 1) := flagOf_of_le hcut
    have hserved := withArguments_require_some hflag 2 (disarmSlots (halfOf hi lo)) s.taken
    obtain ⟨t, ht, hends⟩ := ends_of_reply (exec_disarm tag hi lo cut s) hs hserved
    refine ⟨s.taken.changeSlots (disarmedBy (halfOf hi lo)), _, t, ht, hends, fun i => ?_, changeSlots_rest _, ?_⟩
    · rw [changeSlots_slot, taken_governing, taken_slot]
      rfl
    · have h := windowsEnd_changeSlots (disarmSlot_eq (halfOf hi lo) (cut == 1)) s.taken
      simp only [taken_governing] at h
      exact h
  · exact ends_of_reply (exec_disarm tag hi lo cut s) hs (withArguments_require_none (flagOf_of_lt hcut) ..)

/-- Settles O59: `edgeSlot` test by test; the edge is taken from its line first. -/
theorem triggerEdgeArmsOrIsRefused : Obligations.TriggerEdgeArmsOrIsRefused := by
  refine ⟨fun n d rest s hedges => ends_of_effect (exec_triggerEdge n s) (triggerEdge_of_edges hedges), ?_⟩
  intro n i s
  dsimp only
  rw [← isArmed_and_trigger_iff]
  refine ⟨edgeSlot_unmatched, fun hm hhold => ?_, fun hm hhold hcount => ?_, fun hm hhold hcount hidle => ?_,
    fun hm hhold hcount hactive hkeep => ?_, fun hm hhold hcount hactive hrestart => ?_⟩
  · rw [edgeSlot_holdOff hm hhold, raiseEvent_eq]
  · rw [edgeSlot_overrun hm hhold hcount, raiseEvent_eq]
  · rw [edgeSlot_taken hm hhold hcount, takeEdge_of_no_cut (by simp [hidle]), withArmCount_ready hidle hm.1]
  · rw [edgeSlot_taken hm hhold hcount, takeEdge_of_no_cut (by simp [hkeep]), withArmCount_of_active hactive]
  · rw [edgeSlot_taken hm hhold hcount, takeEdge_of_cut hm.1 hactive hrestart]

/-- Settles O24: the cut, the ports going on and the end test of one turn; the order of the turns is `forSlots`, and what
comes before a turn is `beforeTurn`. -/
theorem takenRowMeetsEachActiveSlotInTurn : Obligations.TakenRowMeetsEachActiveSlotInTurn := by
  refine ⟨fun depth r samples i s => ⟨fun h => takeSlot_of_not_active h .., fun c hc => ?_⟩,
    fun depth r samples during s => rfl, fun i s => ?_, fun i j e during s => beforeTurn_append during j i e s,
    fun e s => ?_⟩
  · have hlast := afterCut_lastRow hc depth r samples
    refine ⟨afterCut depth r samples i c s, fun hcovers => ?_, fun hcovers => ?_, fun hr => ?_, fun hr => ?_⟩
    · rw [afterCut, if_pos hcovers]
      exact stepEnds_settle _
    · rw [afterCut, if_neg (by simp [hcovers])]
    · rw [takeSlot_of_active hc, endTest_of_le hlast hr]
    · rw [takeSlot_of_active hc, endTest_of_lt hlast hr]
  · rw [beforeTurn_nil]
    exact stepEnds_settle s
  · rw [← conclude_eventEffect]
    cases e <;> rfl

end Sys2Proof.Machine
end

section
/-! SUPPORT. The columns of a segment (Chapter 5), said once: which elements `everyNth` takes and how many, and the part
of a row that a window reads. -/

namespace Sys2Proof.Machine

theorem columnStep_pos (step : StepSize) : 0 < step.toNat := by
  cases step <;> decide

theorem ceilDiv_zero {d : Nat} (hd : 0 < d) : ceilDiv 0 d = 0 :=
  Nat.div_eq_of_lt (by omega)

/-- Taking one element more leaves d elements fewer to count. -/
theorem ceilDiv_succ (n : Nat) {d : Nat} (hd : 0 < d) : ceilDiv (n + 1) d = ceilDiv (n - (d - 1)) d + 1 := by
  by_cases h : d ≤ n
  · have hsplit : n + 1 + d - 1 = (n - (d - 1) + d - 1) + d := by omega
    rw [ceilDiv, ceilDiv, hsplit, Nat.add_div_right _ hd]
  · have hlast : n - (d - 1) = 0 := by omega
    have hsplit : n + 1 + d - 1 = n + d := by omega
    rw [hlast, ceilDiv_zero hd, ceilDiv, hsplit, Nat.add_div_right _ hd, Nat.div_eq_of_lt (by omega)]

/-! ### Every step-th element of a list -/

/-- The elements after the skipped ones, counted in steps rounded up. -/
theorem length_everyNth {α : Type} {step : Nat} (hstep : 0 < step) (skip : Nat) (xs : List α) :
    (everyNth step skip xs).length = ceilDiv (xs.length - skip) step := by
  induction xs generalizing skip with
  | nil => simp [everyNth, ceilDiv_zero hstep]
  | cons x xs ih =>
    cases skip with
    | zero => simpa [everyNth, ih] using (ceilDiv_succ xs.length hstep).symm
    | succ skip => simp [everyNth, ih]

/-- Element k is the one k steps after the skipped ones; past the end both sides are `none`. -/
theorem getElem?_everyNth {α : Type} {step : Nat} (hstep : 0 < step) (skip : Nat) (xs : List α) (k : Nat) :
    (everyNth step skip xs)[k]? = xs[skip + k * step]? := by
  induction xs generalizing skip k with
  | nil => simp [everyNth]
  | cons x xs ih =>
    cases skip with
    | succ skip => rw [everyNth, ih, Nat.add_right_comm, List.getElem?_cons_succ]
    | zero =>
      cases k with
      | zero => simp [everyNth]
      | succ k =>
        have hnext : 0 + (k + 1) * step = step - 1 + k * step + 1 := by
          rw [Nat.succ_mul]
          omega
        rw [everyNth, List.getElem?_cons_succ, ih, hnext, List.getElem?_cons_succ]

/-! ### The segment of a row (R90) -/

namespace WindowContext

/-- The part of a row in the window is as long as the width allows and the row reaches. -/
theorem length_segment (c : WindowContext) (samples : List Half) :
    (c.segment samples).length = ceilDiv (min c.width (samples.length - c.leftColumn)) c.columnStep.toNat := by
  rw [segment, length_everyNth (columnStep_pos _), List.length_take, List.length_drop, Nat.sub_zero]

/-- A sample that the segment holds lies within the width, where the window reads the row itself. -/
theorem getElem?_segment (c : WindowContext) (samples : List Half) {k : Nat} (hk : k < (c.segment samples).length) :
    (c.segment samples)[k]? = samples[c.leftColumn + k * c.columnStep.toNat]? := by
  have hwindow : (c.segment samples)[k]? =
      ((samples.drop c.leftColumn).take c.width)[k * c.columnStep.toNat]? := by
    rw [segment, getElem?_everyNth (columnStep_pos _), Nat.zero_add]
  have hwidth : k * c.columnStep.toNat < c.width := by
    obtain ⟨hin, -⟩ := List.getElem?_eq_some_iff.mp (hwindow.symm.trans (List.getElem?_eq_getElem hk))
    rw [List.length_take] at hin
    omega
  rw [hwindow, List.getElem?_take_of_lt hwidth, List.getElem?_drop]

end WindowContext

end Sys2Proof.Machine
end

section
/-! The statement about the columns of a segment (Chapter 5), settled. -/

namespace Sys2Proof.Machine

/-- Settles O20: the segment's length counts the columns from the left column to m, and its k-th sample is the one k
column steps on. -/
theorem segmentTakesEveryStepthColumn : Obligations.SegmentTakesEveryStepthColumn := by
  intro c samples
  dsimp only
  refine ⟨?_, fun k hk => c.getElem?_segment samples hk, fun hreach => ?_⟩
  · rw [c.length_segment]
    split
    case isTrue hshort =>
      have hempty : min c.width (samples.length - c.leftColumn) = 0 := by omega
      rw [hempty, ceilDiv_zero (columnStep_pos _)]
    case isFalse hlong =>
      have hcolumns : min c.width (samples.length - c.leftColumn) =
          min (c.leftColumn + c.width) samples.length - c.leftColumn := by omega
      rw [hcolumns]
  · rw [c.length_segment, Nat.min_eq_left (by omega)]

end Sys2Proof.Machine
end

section
/-! SUPPORT. A RECOVERING port and its way back to STALLED (section 6.5), said once: what the port laws say of it, what
the expiry of its hold timer and the next rise do, and what it sends at the end of a step. -/

namespace Sys2Proof.Machine

theorem exec_recoveryHoldExpiry (p : Fin 4) (s : State) :
    exec (.recoveryHoldExpiry p) s = conclude s (recoveryHoldExpiry p s) := rfl
theorem exec_readyRise (p : Fin 4) (s : State) : exec (.readyRise p) s = conclude s (readyRise p s) := rfl

/-! ### What the laws say of a RECOVERING port -/

/-- A set that is not empty has a lowest stream. -/
theorem exists_lowestStream {set : BitVec 16} (h : set ≠ 0) : ∃ id, lowestStream set = some id := by
  obtain ⟨i, hi, hbit⟩ : ∃ i, ∃ _ : i < 16, set.getLsbD i = true := by
    by_contra hnone
    refine h (BitVec.eq_of_getLsbD_eq fun i hi => ?_)
    have hclear : ¬ set.getLsbD i = true := fun hbit => hnone ⟨i, hi, hbit⟩
    simpa using hclear
  have hfound : ((List.finRange 16).find? fun i => set.getLsbD i.val).isSome = true :=
    List.find?_isSome.mpr ⟨⟨i, hi⟩, List.mem_finRange _, hbit⟩
  obtain ⟨j, hj⟩ := Option.isSome_iff_exists.mp hfound
  exact ⟨BitVec.ofNat 4 j.val, by rw [lowestStream, hj]; rfl⟩

/-- A consistent RECOVERING port has an empty queue and no reservation; what it has left is streams to close or a line
to complete (R110, R118). -/
theorem Port.consistent_recovering {q : Port} (hstate : q.state = .recovering) (h : q.consistent = true) :
    q.queue = [] ∧ q.reservations = 0 ∧ (q.openSet ≠ 0 ∨ q.transmission.isSome = true) := by
  simp only [Port.consistent, hstate, Bool.and_eq_true, Bool.or_eq_true, List.isEmpty_iff, beq_iff_eq, bne_iff_ne] at h
  obtain ⟨⟨⟨-, hqueue⟩, hreservations⟩, hleft⟩ := h
  exact ⟨hqueue, hreservations, hleft⟩

theorem holdCondition_recovering {s : State} {p : Fin 4} (hstate : (s.port p).state = .recovering) :
    s.holdCondition p = true ↔ (s.port p).ready = false ∧ (s.port p).transmission = none := by
  simp only [State.holdCondition, ports_eq_port, hstate, Bool.and_eq_true, Bool.not_eq_true', Option.isNone_iff_eq_none]

/-- While the hold timer of a RECOVERING port runs, ready is low and no line is in transmission (R115), so streams are
still open. -/
theorem State.PortLaw.recovering_timed {s : State} (hlaw : s.PortLaw) {p : Fin 4}
    (hstate : (s.port p).state = .recovering) (hrun : (s.port p).holdTimer.isRunning = true) :
    (s.port p).queue = [] ∧ (s.port p).reservations = 0 ∧ (s.port p).openSet ≠ 0 ∧ (s.port p).ready = false ∧
    (s.port p).transmission = none := by
  obtain ⟨hconsistent, -, -, -, -, htimer⟩ := hlaw p
  obtain ⟨hready, hidle⟩ := (holdCondition_recovering hstate).mp (htimer.mp hrun).1
  obtain ⟨hqueue, hreservations, hleft⟩ := Port.consistent_recovering hstate hconsistent
  exact ⟨hqueue, hreservations, hleft.resolve_right (by simp [hidle]), hready, hidle⟩

/-! ### The two commands -/

/-- A port just written, in a state whose notification unit and fault line are written too. -/
theorem port_setPort_notify_fault (s : State) (p : Fin 4) (q : Port) (n : NotifyUnit) (f : FaultConditions) :
    State.port { s.setPort p q with notify := n, fault := f } p = q :=
  (port_setPort s p p q).trans (if_pos rfl)

/-- The report of a stall: the port's mark, the event, and on the management port the fault line's condition (R116,
R117). -/
theorem reportStall_eq (p : Fin 4) (s : State) :
    reportStall p s = { s.setPort p { s.port p with stallOutstanding := true } with
      notify := s.notify.takeAll [s.eventOf .portState (.port p) 1 0]
      fault := if p = s.mgmt then { s.fault with portTrouble := true } else s.fault } := by
  simp only [reportStall, raiseEvent_eq, setPort_mgmt]
  split <;> rfl

/-- The port and the part when the hold timer of a RECOVERING port has expired (R117). -/
theorem recoveryHoldExpiry_of_recovering {p : Fin 4} {s : State} (hstate : (s.port p).state = .recovering)
    (hrun : (s.port p).holdTimer.isRunning = true) :
    recoveryHoldExpiry p s = some
      { s.setPort p { s.port p with state := .stalled, holdTimer := .stopped, stallOutstanding := true } with
        notify := s.notify.takeAll [s.eventOf .portState (.port p) 1 0]
        fault := if p = s.mgmt then { s.fault with portTrouble := true } else s.fault } := by
  rw [recoveryHoldExpiry, if_pos ⟨hstate, hrun⟩, reportStall_eq]
  simp only [setPort_setPort, port_setPort, if_true]
  rfl

/-- A recovery goes on while streams are open (R118). -/
theorem endRecoveryIfDone_of_open {p : Fin 4} {s : State} (hset : (s.port p).openSet ≠ 0) :
    endRecoveryIfDone p s = s :=
  if_neg fun hdone => hset hdone.1

/-- A rise on a STALLED port with streams open begins the recovery (R114, R118). -/
theorem readyRise_of_stalled {p : Fin 4} {s : State} (hready : (s.port p).ready = false)
    (hstate : (s.port p).state = .stalled) (hset : (s.port p).openSet ≠ 0) :
    readyRise p s = some (s.setPort p { s.port p with ready := true, state := .recovering }) := by
  have hrise : (s.port p).rise = { s.port p with ready := true, state := .recovering } := by rw [Port.rise, hstate]
  have hopen : endRecoveryIfDone p (s.setPort p (s.port p).rise) = s.setPort p (s.port p).rise :=
    endRecoveryIfDone_of_open (by simpa [hrise] using hset)
  simp only [readyRise, hready, hstate, hopen, Bool.false_eq_true, if_true, if_false]
  rw [hrise]

/-! ### The port at the end of a step -/

namespace StepEnds

variable {u t : State} (h : StepEnds u t) {p : Fin 4}
include h

/-- A port that may not begin a line keeps everything but its hold timer. -/
theorem port_of_not_mayBegin (hbegin : (u.port p).mayBegin = false) :
    t.port p = { u.port p with holdTimer := t.holdTimerFrom p (u.port p).holdTimer } := by
  have hnone : u.sendsNext p = none := by simp [State.sendsNext, hbegin]
  rw [h.port p, State.portSending, hnone]

/-- The open-stream set changes at completions alone (R113). -/
theorem openSet : (t.port p).openSet = (u.port p).openSet := by
  obtain ⟨-, -, -, -, -, hset, -⟩ := portSending_kept u p
  rw [h.port p]
  exact hset

/-- A RECOVERING port stays so when its line begins (R118). -/
theorem state_of_recovering (hstate : (u.port p).state = .recovering) : (t.port p).state = .recovering := by
  rw [h.port p, State.portSending]
  cases u.sendsNext p <;> simp [Port.sending, hstate]

/-- Off the management port, a RECOVERING port with ready high and no line in transmission begins the ABANDONED close of
its lowest open stream (R118). -/
theorem transmission_of_recovering (hmgmt : p ≠ u.mgmt) (hstate : (u.port p).state = .recovering)
    (hready : (u.port p).ready = true) (hidle : (u.port p).transmission = none) {id : BitVec 4}
    (hid : lowestStream (u.port p).openSet = some id) :
    (t.port p).transmission = some ⟨.abandonedClose id, false⟩ := by
  have hsends : u.sendsNext p = some (.departure (.abandonedClose id)) := by
    simp [State.sendsNext, Port.mayBegin, nextSource, Port.departureOffer, hmgmt, hstate, hready, hidle, hid]
  rw [h.port p, State.portSending, hsends]
  rfl

end StepEnds

/-- The next rise on a port stalled with streams open begins its recovery afresh, every stream still in the set (R117,
R118). -/
theorem readyRise_recovers_stalled {p : Fin 4} {s : State} (hready : (s.port p).ready = false)
    (hstate : (s.port p).state = .stalled) (hidle : (s.port p).transmission = none) (hset : (s.port p).openSet ≠ 0) :
    ∃ v, exec (.readyRise p) s = .next v ∧ (v.port p).state = .recovering ∧
      (v.port p).openSet = (s.port p).openSet ∧ ∃ id, lowestStream (s.port p).openSet = some id ∧
        (p ≠ s.mgmt → (v.port p).transmission = some ⟨.abandonedClose id, false⟩) := by
  obtain ⟨v, hv, hends⟩ := ends_of_effect (exec_readyRise p s) (readyRise_of_stalled hready hstate hset)
  obtain ⟨id, hid⟩ := exists_lowestStream hset
  refine ⟨v, hv, hends.state_of_recovering (by simp), by simp [hends.openSet], id, hid, fun hmgmt => ?_⟩
  exact hends.transmission_of_recovering hmgmt (by simp) (by simp) (by simpa using hidle) (by simpa using hid)

end Sys2Proof.Machine
end

section
/-! The statement about the stall of a RECOVERING port (section 6.5), settled. -/

namespace Sys2Proof.Machine

/-- Settles O55: the port law leaves the timed port nothing but open streams; once STALLED it begins no line, so the
next rise finds it as the expiry left it. -/
theorem recoveryHoldExpiryStallsThePortAgain : Obligations.RecoveryHoldExpiryStallsThePortAgain := by
  intro p s hlaw hstate hrun
  obtain ⟨hqueue, hreservations, hset, hready, hidle⟩ := hlaw.recovering_timed hstate hrun
  obtain ⟨t, ht, hends⟩ :=
    ends_of_effect (exec_recoveryHoldExpiry p s) (recoveryHoldExpiry_of_recovering hstate hrun)
  refine ⟨hqueue, hreservations, t, ht, hends, ?_⟩
  have hport : t.port p = { s.port p with
      state := .stalled, stallOutstanding := true, holdTimer := t.holdTimerFrom p .stopped } := by
    rw [hends.port_of_not_mayBegin (by rw [port_setPort_notify_fault]; rfl), port_setPort_notify_fault]
  have hrise := readyRise_recovers_stalled (s := t) (p := p) (by rw [hport]; exact hready) (by rw [hport])
    (by rw [hport]; exact hidle) (by rw [hport]; exact hset)
  have hmgmt : t.mgmt = s.mgmt := hends.mgmt
  rw [hport, hmgmt] at hrise
  exact hrise

end Sys2Proof.Machine
end

section
/-! SUPPORT. CLEAR_COUNTERS (section 8.6), said once: each slot and each port has its two counters cleared, and neither
walk touches anything else. -/

namespace Sys2Proof.Machine

/-- A slot with its two counters cleared. -/
def Slot.cleared (t : Slot) : Slot := { t with opened := 0, skipped := 0 }

/-- A port with its two counters cleared. -/
def Port.cleared (q : Port) : Port := { q with recordsSent := 0, rowsDropped := 0 }

/-! ### The walk over the slots -/

theorem forSlots_clearSlot_slot (s : State) (i : Fin 16) : (forSlots clearSlot s).slot i = (s.slot i).cleared :=
  changeSlots_slot (change := fun _ _ t => t.cleared) s i

theorem forSlots_clearSlot_rest (s : State) : ∃ slots, forSlots clearSlot s = { s with slots := slots } :=
  ⟨_, changeSlots_rest (change := fun _ _ t => t.cleared) s⟩

theorem forSlots_clearSlot_port (s : State) (p : Fin 4) : (forSlots clearSlot s).port p = s.port p :=
  forSlots_invariant (P := fun v => v.port p = s.port p) (fun i _ hv => (setSlot_port i _ p).trans hv) rfl

/-! ### The walk over the ports -/

theorem forPorts_clearPort_port (s : State) (p : Fin 4) : (forPorts clearPort s).port p = (s.port p).cleared := by
  refine forPorts_port (P := fun _ => True) (g := fun _ q => q.cleared) (fun _ _ _ => trivial) ?_ ?_ trivial p
  · intro p r v _ hr
    rw [clearPort, port_setPort, if_neg hr]
  · intro p v _
    rw [clearPort, port_setPort, if_pos rfl]
    rfl

theorem forPorts_clearPort_rest (s : State) : ∃ ports, forPorts clearPort s = { s with ports := ports } :=
  forPorts_invariant (P := fun v => ∃ ports, v = { s with ports := ports })
    (by rintro p v ⟨ports, rfl⟩; exact ⟨_, rfl⟩) ⟨s.ports, rfl⟩

theorem forPorts_clearPort_slot (s : State) (i : Fin 16) : (forPorts clearPort s).slot i = s.slot i :=
  forPorts_invariant (P := fun v => v.slot i = s.slot i) (fun p _ hv => (setPort_slot p _ i).trans hv) rfl

/-! ### The command -/

theorem exec_clearCounters (tag : Byte) (s : State) :
    exec (.clearCounters tag []) s = conclude s (takeCommand tag 0x71 (some clearCounters) s) := rfl

/-- CLEAR_COUNTERS is DONE, and only the receiver, the slots, the ports and the notification unit are rewritten. -/
theorem clearCounters_rest (s : State) : ∃ slots ports,
    clearCounters s =
      ({ s with
          receiver := s.receiver.clear
          slots := slots
          ports := ports
          notify := { s.notify with lostCount := 0 } }, .done) := by
  obtain ⟨slots, hslots⟩ := forSlots_clearSlot_rest (s.setReceiver s.receiver.clear)
  obtain ⟨ports, hports⟩ := forPorts_clearPort_rest (forSlots clearSlot (s.setReceiver s.receiver.clear))
  refine ⟨slots, ports, ?_⟩
  rw [clearCounters, hports, hslots]
  rfl

theorem clearCounters_slot (s : State) (i : Fin 16) : (clearCounters s).1.slot i = (s.slot i).cleared := by
  rw [clearCounters, setNotify_slot, forPorts_clearPort_slot, forSlots_clearSlot_slot, setReceiver_slot]

theorem clearCounters_port (s : State) (p : Fin 4) : (clearCounters s).1.port p = (s.port p).cleared := by
  rw [clearCounters, setNotify_port, forPorts_clearPort_port, forSlots_clearSlot_port, setReceiver_port]

end Sys2Proof.Machine
end

section
/-! The statement about CLEAR_COUNTERS (section 8.6), settled. -/

namespace Sys2Proof.Machine

/-- Settles O34: the command's effect in one record, its slots and ports read one by one; taking the command has changed
no slot and no port. -/
theorem clearCountersClearsEveryCounter : Obligations.ClearCountersClearsEveryCounter := by
  intro tag s hs
  have hslot := clearCounters_slot s.taken
  have hport := clearCounters_port s.taken
  obtain ⟨slots, ports, heffect⟩ := clearCounters_rest s.taken
  obtain ⟨t, ht, hends⟩ := ends_of_reply (exec_clearCounters tag s) hs heffect
  rw [heffect] at hslot hport
  refine ⟨_, t, ht, hends, rfl, fun i => ?_, fun p => ?_, rfl, rfl⟩
  · rw [hslot, taken_slot]
    rfl
  · rw [hport, taken_port]
    rfl

end Sys2Proof.Machine
end

section
/-! SUPPORT. The notification unit's queue (Chapter 9), said once: the rewriting of the one entry that answers a test,
an event taken with and without a pending match, and the expiry of a retry timer below and at the limit. -/

namespace Sys2Proof.Machine

/-- A rewriting under a test that a single entry of the list passes changes that entry alone. -/
theorem map_ite_of_only {α : Type} (p : α → Prop) [DecidablePred p] (f : α → α) {before after : List α} {e : α}
    (he : p e) (hothers : ∀ x ∈ before ++ after, ¬p x) :
    (before ++ e :: after).map (fun x => if p x then f x else x) = before ++ f e :: after := by
  have hkept : ∀ xs : List α, (∀ x ∈ xs, ¬p x) → xs.map (fun x => if p x then f x else x) = xs :=
    fun xs hxs => (List.map_congr_left fun x hx => if_neg (hxs x hx)).trans (List.map_id' xs)
  obtain ⟨hbefore, hafter⟩ := List.forall_mem_append.mp hothers
  rw [List.map_append, List.map_cons, hkept before hbefore, hkept after hafter, if_pos he]

/-! ### An event (R154, R157, R158) -/

theorem sameKey_iff (a b : PendingEntry) : a.sameKey b = true ↔ a.cls = b.cls ∧ a.subject = b.subject := by
  simp [PendingEntry.sameKey]

/-- The repeat count of a coalesced entry rises by one below 255 and stays there. -/
theorem coalesce_eq (e ev : PendingEntry) :
    e.coalesce ev = { e with
      repeatCount := if e.repeatCount < 255 then e.repeatCount + 1 else 255
      detail := ev.detail
      frameNumber := ev.frameNumber } := by
  have hcount : min (e.repeatCount + 1) 255 = if e.repeatCount < 255 then e.repeatCount + 1 else 255 := by
    split <;> omega
  rw [PendingEntry.coalesce, hcount]

/-- An event whose class and subject one pending entry has coalesces into that entry. -/
theorem take_of_match {n : NotifyUnit} {ev e : PendingEntry} {before after : List PendingEntry}
    (hpending : n.pending = before ++ e :: after) (he : e.sameKey ev = true)
    (hothers : ∀ x ∈ before ++ after, ¬x.sameKey ev = true) :
    n.take ev = { n with pending := before ++ e.coalesce ev :: after } := by
  have hsome : ¬∀ x ∈ n.pending, x.sameKey ev = false := fun hnone =>
    Bool.eq_false_iff.mp (hnone e (by simp [hpending])) he
  obtain ⟨-, h⟩ | ⟨hnone, -, -⟩ | ⟨hnone, -, -⟩ := take_cases n ev
  · rw [h, hpending, map_ite_of_only (α := PendingEntry) (·.sameKey ev = true) (·.coalesce ev) he hothers]
  · exact absurd hnone hsome
  · exact absurd hnone hsome

/-- An event that no pending entry matches, whatever is unacknowledged, is appended or lost. -/
theorem take_of_no_match {n : NotifyUnit} {ev : PendingEntry} (hnone : ∀ x ∈ n.pending, ¬x.sameKey ev = true) :
    n.take ev =
      if n.occupancy < 32 then { n with pending := n.pending ++ [ev] }
      else { n with lostCount := min (n.lostCount + 1) 255 } := by
  obtain ⟨⟨e, hmem, he⟩, -⟩ | ⟨-, hroom, h⟩ | ⟨-, hfull, h⟩ := take_cases n ev
  · exact absurd he (hnone e hmem)
  · rw [h, if_pos hroom]
  · rw [h, if_neg (Nat.not_lt.mpr hfull)]

theorem raiseEvent_of_disabled {c : EventClass} {s : State} (hc : (s.notify.setting c).enable = false) (sub : Subject)
    (hi lo : Byte) : raiseEvent c sub hi lo s = s := by
  rw [raiseEvent, hc]
  rfl

theorem raiseEvent_of_enabled {c : EventClass} {s : State} (hc : (s.notify.setting c).enable = true) (sub : Subject)
    (hi lo : Byte) : raiseEvent c sub hi lo s = { s with notify := s.notify.take (s.eventOf c sub hi lo) } :=
  if_pos hc

/-! ### The expiry of a retry timer (R162, R163) -/

theorem exec_retryTimerExpiry (seq : Byte) (s : State) :
    exec (.retryTimerExpiry seq) s = conclude s (retryExpiry seq s) := rfl

section
variable {s : State} {older newer : List SentEntry} {e : SentEntry} (hsent : s.notify.sent = older ++ e :: newer)
  (hrunning : e.retryTimer.isRunning = true) (hunique : ∀ x ∈ older ++ newer, x.sequence ≠ e.sequence)
include hsent hrunning hunique

/-- The one entry with a sequence number, its timer running, is the one whose expiry the unit finds. -/
theorem find?_expiring :
    (s.notify.sent.find? fun x => x.sequence == e.sequence && x.retryTimer.isRunning) = some e := by
  refine List.find?_eq_some_iff_append.mpr ⟨by simp [hrunning], older, newer, hsent, fun x hx => ?_⟩
  simp [hunique x (List.mem_append_left newer hx)]

/-- Below the limit the expiry rewrites the entry alone. -/
theorem retryExpiry_below (hlimit : e.retryCount < s.notify.retryLimit) :
    retryExpiry e.sequence s =
      some { s with notify := { s.notify with sent := older ++ e.becomeDue :: newer } } := by
  have hsent' : (s.notify.sent.map fun x => if x.sequence = e.sequence then x.becomeDue else x) =
      older ++ e.becomeDue :: newer := by
    rw [hsent, map_ite_of_only (fun x => x.sequence = e.sequence) SentEntry.becomeDue rfl hunique]
  simp only [retryExpiry, find?_expiring hsent hrunning hunique, if_pos hlimit, hsent', State.setNotify]

/-- At the limit and above it the expiry makes the unit fall silent, and no entry becomes due. -/
theorem retryExpiry_at_limit (hlimit : s.notify.retryLimit ≤ e.retryCount) :
    retryExpiry e.sequence s = some (enterSilent s) := by
  simp only [retryExpiry, find?_expiring hsent hrunning hunique, if_neg (Nat.not_lt.mpr hlimit)]

end

end Sys2Proof.Machine
end

section
/-! The statements about events and retry timers (Chapter 9), settled. -/

namespace Sys2Proof.Machine

/-- Settles O18: `take` with the one pending match, and without one, where the unacknowledged entries only count. -/
theorem eventIsIgnoredCoalescedAppendedOrLost : Obligations.EventIsIgnoredCoalescedAppendedOrLost := by
  intro c sub hi lo s ev
  have hkey : ∀ x : PendingEntry, x.sameKey (s.eventOf c sub hi lo) = true ↔ x.cls = c ∧ x.subject = sub :=
    fun x => sameKey_iff x _
  refine ⟨fun hoff => raiseEvent_of_disabled hoff sub hi lo, fun hon => ⟨?coalesced, ?unmatched⟩⟩
  case coalesced =>
    intro before after e hpending hcls hsub hothers
    have hmatch := take_of_match hpending ((hkey e).mpr ⟨hcls, hsub⟩) fun x hx => mt (hkey x).mp (hothers x hx)
    rw [raiseEvent_of_enabled hon, hmatch, coalesce_eq]
    rfl
  case unmatched =>
    intro hnone
    rw [raiseEvent_of_enabled hon, take_of_no_match fun x hx => mt (hkey x).mp (hnone x hx)]
    rfl

/-- Settles O57: the expiring entry is the one with its sequence number; its retry count against the limit chooses the
effect. -/
theorem retryTimerExpiryResendsOrFallsSilent : Obligations.RetryTimerExpiryResendsOrFallsSilent := by
  intro older newer e s hsent hrunning hunique
  have hexec := exec_retryTimerExpiry e.sequence s
  exact ⟨fun hlimit => ends_of_effect hexec (retryExpiry_below hsent hrunning hunique hlimit),
    fun hlimit => ends_of_effect hexec (retryExpiry_at_limit hsent hrunning hunique hlimit)⟩

end Sys2Proof.Machine
end

section
/-! The refutation of the statement about window frames and streams (Chapter 6): a state that keeps every law the
statement asks for, and the one step after which the stream law fails. -/

namespace Sys2Proof.Machine

/-- An entry whose window frames go to stream 0 of port 1. -/
def strayCloseEntry : Entry := { Entry.reset with enable := true, port := 1 }

/-- Port 1 SENDING with an ABANDONED close of stream 0 in transmission while a window frame has that stream open. No
law says that such a close is in transmission in RECOVERING alone, where the transmitter begins it (R118). -/
def strayClosePort : Port :=
  { Port.reset with
    ready := true, state := .sending, openSet := 1, reservations := 1
    transmission := some ⟨.abandonedClose 0, false⟩ }

/-- Inside an ingress frame, slot 0 cutting its window frame, the completion of port 1's line the next command. -/
def strayCloseState : State :=
  { State.reset with
    laneLocked := true
    receiver := { Receiver.reset with state := .inFrame, silenceTimer := .running 40 }
    banks := (Vector.replicate 4 (Vector.replicate 16 Entry.reset)).set 0
      ((Vector.replicate 16 Entry.reset).set 0 strayCloseEntry)
    slots := (Vector.replicate 16 Slot.reset).set 0 { Slot.reset with state := .active (strayCloseEntry.openContext 0) }
    ports := #v[{ Port.reset with holdTimer := .running 100 }, strayClosePort, Port.reset, Port.reset]
    pending := [.transmissionComplete 1] }

/-- The state after the completion: the close has taken the stream out of the open-stream set. -/
def strayCloseAfter : State := settle (nextState 1 (countCompletion 1 ⟨.abandonedClose 0, false⟩
  (returnBlocks 1 [] ({ strayCloseState with pending := [] }.setPort 1 { strayClosePort with transmission := none }))))

theorem step_strayCloseState : step strayCloseState = .next strayCloseAfter := rfl

theorem strayCloseState_laws : strayCloseState.WindowLaw ∧ strayCloseState.TableLaw ∧ strayCloseState.SlotLaw ∧
    strayCloseState.PortLaw ∧ strayCloseState.StreamLaw := by
  decide +kernel

/-- After the step stream 0 of port 1, an accepting port, is closed, and slot 0 still cuts it. -/
theorem strayCloseAfter_stream :
    followStream ((strayCloseAfter.port 1).openSet.getLsbD 0) (streamMarks 0 (strayCloseAfter.port 1).counted) = some false ∧
    (strayCloseAfter.port 1).accepting = true ∧ strayCloseAfter.cutsStream 1 0 := by
  decide +kernel

/-- Refutes O8: its second half asks only for laws that allow an ABANDONED close in transmission on a SENDING port. Its
completion closes a stream that an ACTIVE slot still cuts. -/
theorem not_everyStepKeepsTheWindowFrames : ¬ Obligations.EveryStepKeepsTheWindowFrames := by
  rintro ⟨-, hstream⟩
  obtain ⟨hwindow, htable, hslot, hport, hlaw⟩ := strayCloseState_laws
  obtain ⟨-, hends⟩ := hstream _ _ hwindow htable hslot hport hlaw step_strayCloseState
  obtain ⟨hclosed, haccepts, hcuts⟩ := strayCloseAfter_stream
  have hopen := ((hends 1 0).2 haccepts).mpr hcuts
  exact absurd (hclosed.symm.trans hopen) (by decide)

end Sys2Proof.Machine
end

section
/-! SUPPORT. The ready input, the stall and the completion of a transmission (Chapter 6), said once: one equation for each
event in each state of its port. -/

namespace Sys2Proof.Machine

theorem exec_readyFall (p : Fin 4) (s : State) : exec (.readyFall p) s = conclude s (readyFall p s) := rfl
theorem exec_holdTimerExpiry (p : Fin 4) (s : State) : exec (.holdTimerExpiry p) s = conclude s (holdTimerExpiry p s) := rfl
theorem exec_transmissionComplete (p : Fin 4) (s : State) :
    exec (.transmissionComplete p) s = conclude s (transmissionComplete p s) := rfl

/-! ### The ready input (R114) -/

/-- A rise on a port that is not STALLED moves the port alone. -/
theorem readyRise_of_not_stalled {p : Fin 4} {s : State} (hready : (s.port p).ready = false)
    (hstate : (s.port p).state ≠ .stalled) : readyRise p s = some (s.setPort p (s.port p).rise) := by
  simp [readyRise, hready, hstate]

theorem readyFall_of_ready {p : Fin 4} {s : State} (hready : (s.port p).ready = true) :
    readyFall p s = some (s.setPort p (s.port p).fall) := by
  simp [readyFall, hready]

theorem Port.rise_of_held {q : Port} (hstate : q.state = .held) :
    q.rise = { q with ready := true, state := .idle, holdTimer := .stopped } := by
  simp only [Port.rise, hstate]

theorem Port.rise_of_recovering {q : Port} (hstate : q.state = .recovering) :
    q.rise = { q with ready := true, holdTimer := .stopped } := by
  simp only [Port.rise, hstate]

theorem Port.rise_of_level {q : Port} (hstate : q.state = .idle ∨ q.state = .sending ∨ q.state = .disabled) :
    q.rise = { q with ready := true } := by
  rcases hstate with hstate | hstate | hstate <;> simp only [Port.rise, hstate]

theorem Port.fall_eq (q : Port) :
    q.fall = { q with ready := false, state := if q.state = .idle then .held else q.state } := by
  unfold Port.fall
  cases hstate : q.state <;> simp

/-! ### The end of a recovery (R118) -/

/-- A port with a stall outstanding reports that it has recovered; any other reports nothing. -/
def reportRecovery (p : Fin 4) (outstanding : Bool) (ev : PendingEntry) (v : State) : State :=
  if outstanding then
    { v.setPort p { v.port p with stallOutstanding := false } with notify := v.notify.takeAll [ev] }
  else v

theorem reportRecovery_fault (p : Fin 4) (outstanding : Bool) (ev : PendingEntry) (v : State) :
    (reportRecovery p outstanding ev v).fault = v.fault := by
  unfold reportRecovery
  split <;> rfl

theorem reportRecovery_mgmt (p : Fin 4) (outstanding : Bool) (ev : PendingEntry) (v : State) :
    (reportRecovery p outstanding ev v).mgmt = v.mgmt := by
  unfold reportRecovery
  split <;> rfl

/-- The port rests by its ready level and settles; then come its report and, on the management port, the fault line's
(R118; log entry 13). -/
theorem endRecovery_eq {p : Fin 4} {s : State} {outstanding : Bool}
    (hstall : (s.port p).stallOutstanding = outstanding) :
    endRecovery p s =
      let v := settlePort p (s.setPort p { s.port p with state := if (s.port p).ready then .idle else .held })
      let reported := reportRecovery p outstanding (s.eventOf .portState (.port p) 2 0) v
      if p = s.mgmt then { reported with fault := { s.fault with portTrouble := false } } else reported := by
  subst hstall
  have hkept := settlePort_kept p (s.setPort p { s.port p with state := if (s.port p).ready then .idle else .held })
  unfold endRecovery
  dsimp only
  generalize settlePort p _ = v at hkept ⊢
  obtain ⟨hreceiver, hfault, hmgmt, hsettings, hkeeps⟩ := hkept
  have hevent : v.eventOf .portState (.port p) 2 0 = s.eventOf .portState (.port p) 2 0 :=
    eventOf_congr (by rw [hreceiver]; rfl) (by rw [hsettings]; rfl) ..
  have hreport : (if (v.port p).stallOutstanding then
      raiseEvent .portState (.port p) 2 0 (v.setPort p { v.port p with stallOutstanding := false }) else v) =
      reportRecovery p (s.port p).stallOutstanding (s.eventOf .portState (.port p) 2 0) v := by
    rw [hkeeps, port_setPort, if_pos rfl, reportRecovery, ← hevent, raiseEvent_eq]
    rfl
  have hm := (reportRecovery_mgmt p (s.port p).stallOutstanding (s.eventOf .portState (.port p) 2 0) v).trans hmgmt
  have hf := (reportRecovery_fault p (s.port p).stallOutstanding (s.eventOf .portState (.port p) 2 0) v).trans hfault
  rw [hreport]
  by_cases hp : p = s.mgmt
  · rw [if_pos (hp.trans hm.symm), if_pos hp, reportTrouble, hf]
    rfl
  · rw [if_neg fun h => hp (h.trans hm), if_neg hp]

theorem endRecoveryIfDone_of_done {p : Fin 4} {s : State} (hset : (s.port p).openSet = 0)
    (hidle : (s.port p).transmission = none) : endRecoveryIfDone p s = endRecovery p s :=
  if_pos ⟨hset, hidle⟩

/-- A rise on a STALLED port with no stream open ends its recovery at once (R114, R118). -/
theorem readyRise_of_stalled_closed {p : Fin 4} {s : State} (hready : (s.port p).ready = false)
    (hstate : (s.port p).state = .stalled) (hset : (s.port p).openSet = 0) (hidle : (s.port p).transmission = none) :
    readyRise p s = some (endRecovery p (s.setPort p { s.port p with ready := true, state := .recovering })) := by
  have hrise : (s.port p).rise = { s.port p with ready := true, state := .recovering } := by rw [Port.rise, hstate]
  have hdone : endRecoveryIfDone p (s.setPort p (s.port p).rise) = endRecovery p (s.setPort p (s.port p).rise) :=
    endRecoveryIfDone_of_done (by simpa [hrise] using hset) (by simpa [hrise] using hidle)
  simp only [readyRise, hready, hstate, hdone, Bool.false_eq_true, if_true, if_false]
  rw [hrise]

/-! ### Window frames that end without a CLOSE, slot after slot (R80, R88) -/

theorem routedTo_eq (t : Slot) (p : Fin 4) : t.routedTo p = t.context.any (·.port == p) := by
  unfold Slot.routedTo Slot.context
  cases t.state <;> rfl

/-- Where each slot's turn gives up a reservation of port p if its slot meets a test, and leaves the other slots alone, the
port has given up one for each slot that met it. -/
theorem forSlots_reservations {f : Fin 16 → State → State} {p : Fin 4} {gone : Slot → Bool}
    (hport : ∀ i v, (f i v).port p =
      { v.port p with reservations := (v.port p).reservations - if gone (v.slot i) then 1 else 0 })
    (hother : ∀ i j v, j ≠ i → (f i v).slot j = v.slot j) (s : State) :
    (forSlots f s).port p =
      { s.port p with
        reservations := (s.port p).reservations - (allSlots.filter fun i => gone (s.slot i)).length } := by
  have key : ∀ (l : List (Fin 16)), l.Nodup → ∀ v : State, (l.foldl (fun v i => f i v) v).port p =
      { v.port p with reservations := (v.port p).reservations - (l.filter fun i => gone (v.slot i)).length } := by
    intro l
    induction l with
    | nil => exact fun _ _ => rfl
    | cons i l ih =>
      intro hd v
      obtain ⟨hi, hl⟩ := List.nodup_cons.mp hd
      have hsame : l.filter (fun j => gone ((f i v).slot j)) = l.filter fun j => gone (v.slot j) :=
        List.filter_congr fun j hj => by rw [hother i j v fun h => hi (h ▸ hj)]
      rw [List.foldl_cons, ih hl, hsame, hport, List.filter_cons]
      cases gone (v.slot i) <;> simp [Nat.sub_sub, Nat.add_comm]
  exact key allSlots (List.nodup_finRange 16) s

theorem endIfRouted_eq (p : Fin 4) (i : Fin 16) (s : State) :
    endIfRouted p i s =
      if (s.slot i).routedTo p then
        (s.setPort p { s.port p with reservations := (s.port p).reservations - 1 }).setSlot i
          { s.slot i with state := settledState (s.governing i) (s.slot i).armCount }
      else s := by
  unfold endIfRouted
  cases hs : (s.slot i).state with
  | active c =>
    have hrouted : (s.slot i).routedTo p = (c.port == p) := by simp only [Slot.routedTo, hs]
    by_cases hc : c.port = p
    · simp only [hrouted, hc, beq_self_eq_true, if_true, endSilently_eq, Slot.context, hs]
    · simp [hrouted, hc]
  | _ => simp [Slot.routedTo, hs]

theorem endIfRouted_port (p r : Fin 4) (i : Fin 16) (s : State) :
    (endIfRouted p i s).port r =
      if r = p then { s.port p with
        reservations := (s.port p).reservations - if (s.slot i).routedTo p then 1 else 0 }
      else s.port r := by
  rw [endIfRouted_eq]
  cases (s.slot i).routedTo p <;> by_cases hr : r = p <;> simp [hr]

theorem endIfRouted_slot (p : Fin 4) (i j : Fin 16) (s : State) :
    (endIfRouted p i s).slot j =
      if j = i ∧ (s.slot i).routedTo p = true then
        { s.slot i with state := settledState (s.governing i) (s.slot i).armCount }
      else s.slot j := by
  rw [endIfRouted_eq]
  cases (s.slot i).routedTo p <;> by_cases hj : j = i <;> simp [hj]

theorem forSlots_endIfRouted_rest (p : Fin 4) (s : State) :
    ∃ slots ports, forSlots (endIfRouted p) s = { s with slots := slots, ports := ports } := by
  refine forSlots_invariant (P := fun v => ∃ slots ports, v = { s with slots := slots, ports := ports }) ?_
    ⟨s.slots, s.ports, rfl⟩
  rintro i v ⟨slots, ports, rfl⟩
  rw [endIfRouted_eq]
  split
  · exact ⟨_, _, rfl⟩
  · exact ⟨_, _, rfl⟩

theorem forSlots_endIfRouted_port (p r : Fin 4) (s : State) :
    (forSlots (endIfRouted p) s).port r =
      if r = p then { s.port p with reservations := (s.port p).reservations - s.activeOn p } else s.port r := by
  by_cases hr : r = p
  · subst hr
    rw [if_pos rfl]
    exact forSlots_reservations (gone := (·.routedTo r)) (fun i v => by rw [endIfRouted_port, if_pos rfl])
      (fun i j v hj => by rw [endIfRouted_slot, if_neg fun h => hj h.1]) s
  · rw [if_neg hr]
    exact forSlots_invariant (P := fun v => v.port r = s.port r)
      (fun i v hv => by rw [endIfRouted_port, if_neg hr, hv]) rfl

theorem forSlots_endIfRouted_slot (p : Fin 4) (s : State) (i : Fin 16) :
    (forSlots (endIfRouted p) s).slot i =
      if (s.slot i).routedTo p then
        { s.slot i with state := settledState (s.governing i) (s.slot i).armCount }
      else s.slot i := by
  refine forSlots_slot (P := fun v => ∀ j, v.governing j = s.governing j) (f := endIfRouted p)
    (g := fun i t => if t.routedTo p then { t with state := settledState (s.governing i) t.armCount } else t)
    ?_ ?_ ?_ (fun _ => rfl) i
  · intro i v hv j
    rw [← hv j, endIfRouted_eq]
    split <;> rfl
  · intro i j v _ hj
    rw [endIfRouted_slot, if_neg fun h => hj h.1]
  · intro i v hv
    rw [endIfRouted_slot, hv]
    simp only [true_and]

/-! ### The stall of a HELD port (R116) -/

/-- The part when the hold timer of port p has expired, before the stall is reported. -/
def stalledPart (p : Fin 4) (s : State) : State :=
  forSlots (endIfRouted p) (flushQueue p (s.setPort p (s.port p).stall))

theorem holdTimerExpiry_of_held {p : Fin 4} {s : State} (hstate : (s.port p).state = .held)
    (hrun : (s.port p).holdTimer.isRunning = true) :
    holdTimerExpiry p s = some (reportStall p (stalledPart p s)) :=
  if_pos ⟨hstate, hrun⟩

theorem flushedStall_eq (p : Fin 4) (s : State) :
    flushQueue p (s.setPort p (s.port p).stall) =
      { s.setPort p { s.port p with
          state := .stalled
          holdTimer := .stopped
          queue := []
          holding := (s.port p).holding - (s.port p).waitingBlocks.length } with
        freeList := s.freeList ++ (s.port p).waitingBlocks } := by
  rw [flushQueue_eq]
  simp only [port_setPort, if_true, setPort_setPort, setPort_freeList]
  rfl

theorem stalledPart_rest (p : Fin 4) (s : State) : ∃ slots ports,
    stalledPart p s =
      { s with slots := slots, ports := ports, freeList := s.freeList ++ (s.port p).waitingBlocks } := by
  obtain ⟨slots, ports, h⟩ := forSlots_endIfRouted_rest p (flushQueue p (s.setPort p (s.port p).stall))
  exact ⟨slots, ports, by rw [stalledPart, h, flushedStall_eq]; rfl⟩

theorem flushedStall_slot (p : Fin 4) (s : State) (i : Fin 16) :
    (flushQueue p (s.setPort p (s.port p).stall)).slot i = s.slot i := by rw [flushedStall_eq]; rfl

theorem flushedStall_port (p r : Fin 4) (s : State) :
    (flushQueue p (s.setPort p (s.port p).stall)).port r =
      if r = p then { s.port p with
        state := .stalled
        holdTimer := .stopped
        queue := []
        holding := (s.port p).holding - (s.port p).waitingBlocks.length }
      else s.port r := by
  rw [flushedStall_eq]
  exact port_setPort ..

theorem stalledPart_port (p r : Fin 4) (s : State) :
    (stalledPart p s).port r =
      if r = p then { s.port p with
        state := .stalled
        holdTimer := .stopped
        queue := []
        holding := (s.port p).holding - (s.port p).waitingBlocks.length
        reservations := (s.port p).reservations - s.activeOn p }
      else s.port r := by
  have hactive : (flushQueue p (s.setPort p (s.port p).stall)).activeOn p = s.activeOn p := by
    simp only [State.activeOn, flushedStall_slot]
  rw [stalledPart, forSlots_endIfRouted_port, flushedStall_port, flushedStall_port, hactive, if_pos rfl]
  by_cases hr : r = p <;> simp [hr]

theorem stalledPart_slot (p : Fin 4) (s : State) (i : Fin 16) :
    (stalledPart p s).slot i =
      if (s.slot i).routedTo p then
        { s.slot i with state := settledState (s.governing i) (s.slot i).armCount }
      else s.slot i := by
  rw [stalledPart, forSlots_endIfRouted_slot, flushedStall_slot]
  rw [show (flushQueue p (s.setPort p (s.port p).stall)).governing i = s.governing i by rw [flushedStall_eq]; rfl]

/-! ### The completion of a transmission (R112) -/

/-- The port once line x has completed on it: blocks and place given back and, unless the line began before a hard reset,
the open-stream set and records sent brought up to date. -/
def Port.completed (q : Port) (x : Transmission) : Port :=
  if x.stale then { q with transmission := none, holding := q.holding - x.line.blockIds.length }
  else { q with
    transmission := none
    holding := q.holding - x.line.blockIds.length
    openSet := openSetAfter x.line q.openSet
    recordsSent := satInc q.recordsSent }

/-- The notification unit once line x has completed: told of a notification of its own. -/
def NotifyUnit.completed (n : NotifyUnit) (x : Transmission) : NotifyUnit :=
  if x.stale then n
  else match x.line with
    | .notification _ => n.complete
    | _ => n

/-- The part once line x has completed on port p, before the port goes on. -/
def completedPart (p : Fin 4) (x : Transmission) (s : State) : State :=
  { s.setPort p ((s.port p).completed x) with
    freeList := s.freeList ++ x.line.blockIds, notify := s.notify.completed x }

theorem completedPart_port (p r : Fin 4) (x : Transmission) (s : State) :
    (completedPart p x s).port r = if r = p then (s.port p).completed x else s.port r :=
  port_setPort ..

/-- An event raised after a line has completed is the event raised before it. -/
theorem completedPart_eventOf (p : Fin 4) (x : Transmission) (s : State) (c : EventClass) (sub : Subject) (hi lo : Byte) :
    (completedPart p x s).eventOf c sub hi lo = s.eventOf c sub hi lo := by
  have hsettings : (s.notify.completed x).settings = s.notify.settings := by
    unfold NotifyUnit.completed
    split
    · rfl
    · split <;> rfl
  exact eventOf_congr (s := s) (u := completedPart p x s) rfl hsettings ..

theorem transmissionComplete_of_line {p : Fin 4} {x : Transmission} {s : State}
    (hline : (s.port p).transmission = some x) :
    transmissionComplete p s = some (nextState p (completedPart p x s)) := by
  have hcount : countCompletion p x
      (returnBlocks p x.line.blockIds (s.setPort p { s.port p with transmission := none })) = completedPart p x s := by
    have hport (q r : Port) (free : List Nat) :
        State.port { (s.setPort p q).setPort p r with freeList := free } p = r := by
      rw [setPort_setPort]
      exact (port_setPort s p p r).trans (if_pos rfl)
    unfold countCompletion returnBlocks completedPart Port.completed NotifyUnit.completed
    simp only [port_setPort, if_true]
    cases x.stale with
    | true => simp only [if_true, setPort_setPort]; rfl
    | false =>
      simp only [Bool.false_eq_true, if_false]
      rw [hport]
      cases x.line <;> simp [State.setPort, State.setNotify]
  simp only [transmissionComplete, hline, hcount]

theorem transmissionComplete_of_none {p : Fin 4} {s : State} (hline : (s.port p).transmission = none) :
    transmissionComplete p s = none := by
  simp only [transmissionComplete, hline]

section
variable {p : Fin 4} {s : State}

theorem nextState_of_sending (hstate : (s.port p).state = .sending) :
    nextState p s = s.setPort p { s.port p with state := (s.port p).restState } := by
  simp only [nextState, hstate]

theorem nextState_of_recovering (hstate : (s.port p).state = .recovering) :
    nextState p s = endRecoveryIfDone p s := by
  simp only [nextState, hstate]

end

theorem completed_kept (q : Port) (x : Transmission) :
    (q.completed x).state = q.state ∧ (q.completed x).ready = q.ready ∧ (q.completed x).transmission = none ∧
    (q.completed x).stallOutstanding = q.stallOutstanding := by
  unfold Port.completed
  split <;> exact ⟨rfl, rfl, rfl, rfl⟩

end Sys2Proof.Machine
end

section
/-! The statements about the ready input, the hold timer and the completion of a line (Chapter 6), settled. -/

namespace Sys2Proof.Machine

/-- Settles O53: one equation of the ready input for each state of the port. -/
theorem readyInputMovesThePort : Obligations.ReadyInputMovesThePort := by
  refine ⟨fun p s hready => ⟨fun hs => ?_, fun hs => ?_, fun hs => ?_, fun hs hset => ?_, fun hs hset hidle hstall => ?_⟩,
    fun p s hready => ?_⟩
  · have heffect := readyRise_of_not_stalled hready (by rw [hs]; decide)
    rw [Port.rise_of_held hs] at heffect
    exact ends_of_effect (exec_readyRise p s) heffect
  · have heffect := readyRise_of_not_stalled hready (by rcases hs with hs | hs <;> rw [hs] <;> decide)
    rw [Port.rise_of_level (.inr hs)] at heffect
    exact ends_of_effect (exec_readyRise p s) heffect
  · have heffect := readyRise_of_not_stalled hready (by rw [hs]; decide)
    rw [Port.rise_of_recovering hs] at heffect
    exact ends_of_effect (exec_readyRise p s) heffect
  · exact ends_of_effect (exec_readyRise p s) (readyRise_of_stalled hready hs hset)
  · have heffect := readyRise_of_stalled_closed hready hs hset hidle
    rw [endRecovery_eq (outstanding := true) (by simpa using hstall)] at heffect
    simp only [port_setPort, if_true, setPort_setPort, setPort_mgmt, reportRecovery] at heffect
    refine ends_of_effect (exec_readyRise p s) (heffect.trans ?_)
    by_cases hm : p = s.mgmt
    · simp only [if_pos hm]; rfl
    · simp only [if_neg hm]
      have hfault := (settlePort_kept p (s.setPort p { s.port p with ready := true, state := .idle })).2.1
      rw [setPort_fault] at hfault
      rw [← hfault]
      rfl
  · rw [← Port.fall_eq]
    exact ends_of_effect (exec_readyFall p s) (readyFall_of_ready hready)

/-- Settles O54: the part stalled, port by port and slot by slot, and then the report. -/
theorem holdTimerExpiryStallsThePort : Obligations.HoldTimerExpiryStallsThePort := by
  intro p s hheld hrun
  obtain ⟨t, ht, hends⟩ := ends_of_effect (exec_holdTimerExpiry p s) (holdTimerExpiry_of_held hheld hrun)
  obtain ⟨slots, ports, hrest⟩ := stalledPart_rest p s
  have hport := fun r => stalledPart_port p r s
  have hslot := stalledPart_slot p s
  rw [reportStall_eq] at hends
  generalize stalledPart p s = v at hends hrest hport hslot ht
  have hwritten (r : Fin 4) (q : Port) (n : NotifyUnit) (f : FaultConditions) :
      State.port { v.setPort p q with notify := n, fault := f } r = if r = p then q else v.port r := port_setPort ..
  refine ⟨_, t, ht, hends, ?_, fun r hr => ?_, hslot, ?_⟩
  · rw [hwritten, if_pos rfl, hport, if_pos rfl]
    simp only [Port.waitingBlocks, List.length_flatMap, List.length_map]
  · rw [hwritten, if_neg hr, hport, if_neg hr]
  · subst hrest
    rfl

/-- Settles O56: the part once the line is done, and then what the port does in its state. -/
theorem completionFreesCountsAndGoesOn : Obligations.CompletionFreesCountsAndGoesOn := by
  intro p x s hline q ids opened told freed after b ends
  have hafter : after = q.completed x := by
    obtain ⟨line, stale⟩ := x
    cases stale with
    | true => rfl
    | false => rcases line with ⟨stream, _ | _ | _ | _⟩ | _ | _ | _ <;> rfl
  have hb : b = completedPart p x s := by
    have hnotify : (if x.stale then s.notify else told) = s.notify.completed x := by
      obtain ⟨line, stale⟩ := x
      cases stale <;> cases line <;> rfl
    simp only [b, hafter, hnotify]
    rfl
  have hport : b.port p = after := by rw [hb, hafter, completedPart_port, if_pos rfl]
  obtain ⟨hstate, hready, hidle, hstall⟩ := completed_kept q x
  rw [← hafter] at hstate hready hidle hstall
  have hrest : (if after.ready = true then PortState.idle else .held) = if q.ready = true then .idle else .held := by
    rw [hready]
  have gone {u : State} (h : nextState p b = u) : ends u :=
    ends_of_effect (exec_transmissionComplete p s) (by rw [transmissionComplete_of_line hline, ← hb, h])
  have recovers (hs : q.state = .recovering) : nextState p b = endRecoveryIfDone p b :=
    nextState_of_recovering (by rw [hport, hstate, hs])
  refine ⟨fun hs => gone ?_, fun hs hset => gone ?_, fun hs hset => gone ?_⟩
  · rw [nextState_of_sending (by rw [hport, hstate, hs]), hport, Port.restState, hrest]
  · rw [recovers hs, endRecoveryIfDone_of_open (by rwa [hport])]
  · have hevent : b.eventOf .portState (.port p) 2 0 = s.eventOf .portState (.port p) 2 0 := by
      rw [hb, completedPart_eventOf]
    rw [recovers hs, endRecoveryIfDone_of_done (by rwa [hport]) (by rwa [hport]),
      endRecovery_eq (outstanding := q.stallOutstanding) (by rw [hport, hstall]), hport, hrest, hevent]
    rfl

end Sys2Proof.Machine
end

section
/-! SUPPORT. RESTART (section 8.7) and hard reset, said once: what every slot, every port and the rest of the part are
after them. -/

namespace Sys2Proof.Machine

/-! ### The ports' waiting blocks come back (R102, R105, R125) -/

/-- Where each port's turn gives back the blocks of its own waiting records and leaves the other ports alone, all of them
have come back in ascending port order. -/
theorem forPorts_freeList {f : Fin 4 → State → State}
    (hfree : ∀ p v, (f p v).freeList = v.freeList ++ (v.port p).waitingBlocks)
    (hother : ∀ p r v, r ≠ p → (f p v).port r = v.port r) (s : State) :
    (forPorts f s).freeList = s.freeList ++ allPorts.flatMap fun p => (s.port p).waitingBlocks := by
  have key : ∀ (l : List (Fin 4)), l.Nodup → ∀ v : State,
      (l.foldl (fun v p => f p v) v).freeList = v.freeList ++ l.flatMap fun p => (v.port p).waitingBlocks := by
    intro l
    induction l with
    | nil => exact fun _ v => by simp
    | cons p l ih =>
      intro hd v
      obtain ⟨hp, hl⟩ := List.nodup_cons.mp hd
      have hsame : (l.flatMap fun r => ((f p v).port r).waitingBlocks) = l.flatMap fun r => (v.port r).waitingBlocks :=
        List.flatMap_congr fun r hr => by rw [hother p r v fun h => hp (h ▸ hr)]
      rw [List.foldl_cons, ih hl, hsame, hfree, List.flatMap_cons, List.append_assoc]
  exact key allPorts (List.nodup_finRange 4) s

theorem flushQueue_port (p r : Fin 4) (s : State) :
    (flushQueue p s).port r =
      if r = p then { s.port p with
        holding := (s.port p).holding - (s.port p).waitingBlocks.length, queue := [] }
      else s.port r := by
  rw [flushQueue_eq]
  exact port_setPort ..

/-! ### The slots at a RESTART (R88) -/

/-- A slot disarmed and settled. -/
def Slot.restarted (e : Entry) (t : Slot) : Slot :=
  { t with armCount := 0, holdOff := 0, state := settledState e 0 }

theorem restartSlot_eq (i : Fin 16) (s : State) :
    restartSlot i s =
      (match (s.slot i).context with
      | some c => s.setPort c.port { s.port c.port with reservations := (s.port c.port).reservations - 1 }
      | none => s).setSlot i ((s.slot i).restarted (s.governing i)) := by
  unfold restartSlot
  rw [endSilently_eq]
  cases (s.slot i).context <;> simp [settleSlot, Slot.restarted]

theorem restartSlot_slot (i j : Fin 16) (s : State) :
    (restartSlot i s).slot j = if j = i then (s.slot i).restarted (s.governing i) else s.slot j := by
  rw [restartSlot_eq, slot_setSlot]
  cases (s.slot i).context <;> simp

theorem restartSlot_port (i : Fin 16) (p : Fin 4) (s : State) :
    (restartSlot i s).port p =
      { s.port p with reservations := (s.port p).reservations - if (s.slot i).routedTo p then 1 else 0 } := by
  rw [restartSlot_eq, setSlot_port, routedTo_eq]
  cases (s.slot i).context with
  | none => simp
  | some c =>
    by_cases hp : p = c.port
    · subst hp; simp
    · simp [hp, Ne.symm hp]

theorem forSlots_restartSlot_rest (s : State) :
    ∃ slots ports, forSlots restartSlot s = { s with slots := slots, ports := ports } := by
  refine forSlots_invariant (P := fun v => ∃ slots ports, v = { s with slots := slots, ports := ports }) ?_
    ⟨s.slots, s.ports, rfl⟩
  rintro i v ⟨slots, ports, rfl⟩
  rw [restartSlot_eq]
  split <;> exact ⟨_, _, rfl⟩

theorem forSlots_restartSlot_port (p : Fin 4) (s : State) :
    (forSlots restartSlot s).port p =
      { s.port p with reservations := (s.port p).reservations - s.activeOn p } :=
  forSlots_reservations (gone := (·.routedTo p)) (fun i v => restartSlot_port i p v)
    (fun i j v hj => by rw [restartSlot_slot, if_neg hj]) s

theorem forSlots_restartSlot_slot (i : Fin 16) (s : State) :
    (forSlots restartSlot s).slot i = (s.slot i).restarted (s.governing i) := by
  refine forSlots_slot (P := fun v => ∀ j, v.governing j = s.governing j) (f := restartSlot)
    (g := fun i t => t.restarted (s.governing i)) ?_ ?_ ?_ (fun _ => rfl) i
  · intro i v hv j
    rw [← hv j, restartSlot_eq]
    cases (v.slot i).context <;> rfl
  · intro i j v _ hj
    rw [restartSlot_slot, if_neg hj]
  · intro i v hv
    rw [restartSlot_slot, if_pos rfl, hv]

/-! ### The ports at a RESTART (R125) -/

/-- A port flushed, its timer stopped, in the state RESTART gives it. -/
def Port.restarted (q : Port) : Port :=
  { q with
    queue := []
    holding := q.holding - q.waitingBlocks.length
    holdTimer := .stopped
    controlCount := 0
    state := q.restartState
    stallOutstanding := if q.leavesStall then false else q.stallOutstanding }

theorem restartPort_eq (p : Fin 4) (s : State) :
    restartPort p s =
      { s.setPort p (s.port p).restarted with
        freeList := s.freeList ++ (s.port p).waitingBlocks
        fault := if (s.port p).leavesStall = true ∧ p = s.mgmt then { s.fault with portTrouble := false }
          else s.fault } := by
  have hport : (flushQueue p s).port p = { s.port p with
      holding := (s.port p).holding - (s.port p).waitingBlocks.length, queue := [] } := by
    rw [flushQueue_port, if_pos rfl]
  unfold restartPort
  dsimp only
  rw [hport, flushQueue_eq]
  by_cases h : (s.port p).leavesStall = true ∧ p = s.mgmt
  · refine Eq.trans (if_pos h) ?_
    rw [if_pos h]
    simp only [State.setPort, Vector.set_set]
    rfl
  · refine Eq.trans (if_neg h) ?_
    rw [if_neg h]
    simp only [State.setPort, Vector.set_set]
    rfl

theorem restartPort_port (p r : Fin 4) (s : State) :
    (restartPort p s).port r = if r = p then (s.port p).restarted else s.port r := by
  rw [restartPort_eq]
  exact port_setPort ..

theorem forPorts_restartPort_port (p : Fin 4) (s : State) : (forPorts restartPort s).port p = (s.port p).restarted :=
  forPorts_port (P := fun _ => True) (g := fun _ q => q.restarted) (fun _ _ _ => trivial)
    (fun p r v _ hr => by rw [restartPort_port, if_neg hr]) (fun p v _ => by rw [restartPort_port, if_pos rfl])
    trivial p

theorem forPorts_restartPort_freeList (s : State) :
    (forPorts restartPort s).freeList = s.freeList ++ allPorts.flatMap fun p => (s.port p).waitingBlocks :=
  forPorts_freeList (fun p v => by rw [restartPort_eq]) (fun p r v hr => by rw [restartPort_port, if_neg hr]) s

theorem forPorts_restartPort_rest (s : State) :
    ∃ ports free fault, forPorts restartPort s = { s with ports := ports, freeList := free, fault := fault } := by
  refine forPorts_invariant
    (P := fun v => ∃ ports free fault, v = { s with ports := ports, freeList := free, fault := fault }) ?_
    ⟨s.ports, s.freeList, s.fault, rfl⟩
  rintro p v ⟨ports, free, fault, rfl⟩
  rw [restartPort_eq]
  exact ⟨_, _, _, rfl⟩

/-- The management port's part of RESTART alone reaches the fault line. -/
theorem forPorts_restartPort_fault (s : State) :
    (forPorts restartPort s).fault =
      if (s.port s.mgmt).leavesStall then { s.fault with portTrouble := false } else s.fault := by
  have key : ∀ (l : List (Fin 4)), l.Nodup → ∀ v : State,
      (l.foldl (fun v p => restartPort p v) v).fault =
        if v.mgmt ∈ l ∧ (v.port v.mgmt).leavesStall = true then { v.fault with portTrouble := false } else v.fault := by
    intro l
    induction l with
    | nil => exact fun _ v => by simp
    | cons p l ih =>
      intro hd v
      obtain ⟨hp, hl⟩ := List.nodup_cons.mp hd
      have hmgmt : (restartPort p v).mgmt = v.mgmt := by rw [restartPort_eq]; rfl
      have hfault : (restartPort p v).fault =
          if (v.port p).leavesStall = true ∧ p = v.mgmt then { v.fault with portTrouble := false } else v.fault := by
        rw [restartPort_eq]
      rw [List.foldl_cons, ih hl, hmgmt, restartPort_port, hfault]
      by_cases hm : v.mgmt = p
      · subst hm
        simp [hp]
      · simp [hm, Ne.symm hm]
  have h := key allPorts (List.nodup_finRange 4) s
  have hm : s.mgmt ∈ allPorts := List.mem_finRange s.mgmt
  rwa [if_congr (and_iff_right hm) rfl rfl] at h

/-! ### The reports of a RESTART (R125; log entry 3) -/

theorem insertBy_perm {α : Type} (before : α → α → Bool) (a : α) (l : List α) : (insertBy before a l).Perm (a :: l) := by
  induction l with
  | nil => exact .refl _
  | cons b l ih =>
    unfold insertBy
    split
    · exact .refl _
    · exact (ih.cons b).trans (.swap a b l)

theorem orderBy_perm {α : Type} (before : α → α → Bool) (l : List α) : (orderBy before l).Perm l := by
  induction l with
  | nil => exact .refl _
  | cons a l ih => exact (insertBy_perm before a _).trans (ih.cons a)

/-- Events raised one after the other, each made from the settings and the frame number alone. -/
theorem foldl_raiseEvent {α : Type} (ev : α → EventClass × Subject × Byte × Byte) (xs : List α) (s : State) :
    xs.foldl (fun v x => raiseEvent (ev x).1 (ev x).2.1 (ev x).2.2.1 (ev x).2.2.2 v) s =
      { s with notify :=
        s.notify.takeAll (xs.map fun x => s.eventOf (ev x).1 (ev x).2.1 (ev x).2.2.1 (ev x).2.2.2) } := by
  induction xs generalizing s with
  | nil => rfl
  | cons x xs ih =>
    have hlater (y : α) :=
      (movesWindows_raiseEvent (ev x).1 (ev x).2.1 (ev x).2.2.1 (ev x).2.2.2 s).eventOf
        (ev y).1 (ev y).2.1 (ev y).2.2.1 (ev y).2.2.2
    rw [List.foldl_cons, ih]
    simp only [hlater]
    rw [raiseEvent_eq]
    rfl

/-- The reports of the ports that have recovered, as they stand to be raised. -/
def State.recoveredEvents (s : State) (ps : List (Fin 4)) : List PendingEntry :=
  ps.map fun p => s.eventOf .portState (.port p) 2 0

theorem reportRecovered_eq (ps : List (Fin 4)) (s : State) :
    reportRecovered ps s =
      { s with
        choices := s.choices + 1
        notify := s.notify.takeAll (s.recoveredEvents (orderBy (Config.raisesBefore s.choices) ps)) } :=
  foldl_raiseEvent (fun p => (.portState, .port p, 2, 0)) _ { s with choices := s.choices + 1 }

/-! ### RESTART carried out (R150) -/

/-- The receiver after a RESTART (R40, R42). -/
def Receiver.restarted (r : Receiver) : Receiver :=
  { r with
    state := .hunting
    silenceTimer := .stopped
    framesAborted := if r.state = .inFrame then satInc r.framesAborted else r.framesAborted }

theorem restartReceiver_eq (s : State) : restartReceiver s = s.setReceiver s.receiver.restarted := by
  unfold restartReceiver Receiver.restarted
  by_cases h : s.receiver.state = .inFrame
  · rw [if_pos h, if_pos h]; rfl
  · rw [if_neg h, if_neg h]

/-- The notification unit after a RESTART, before the reports of the ports (R169). -/
def State.notifyRestarted (s : State) : NotifyUnit :=
  { s.notify with
    sent := []
    pending := [s.eventOf .restarted .none 1 (boolCode s.pendingBank.isSome)]
    nextSequence := 0
    lostCount := 0
    silent := false }

/-- The part once the slots have had their part of a RESTART and the notification unit has its RESTARTED entry. -/
def slotsRestarted (s : State) : State :=
  restartNotify s.pendingBank.isSome
    (forSlots restartSlot { s.setReceiver s.receiver.restarted with pendingBank := none })

theorem slotsRestarted_rest (s : State) : ∃ slots ports,
    slotsRestarted s = { s with
      receiver := s.receiver.restarted, pendingBank := none, slots := slots, ports := ports
      notify := s.notifyRestarted, fault := { s.fault with silent := false } } := by
  obtain ⟨slots, ports, h⟩ := forSlots_restartSlot_rest { s.setReceiver s.receiver.restarted with pendingBank := none }
  exact ⟨slots, ports, by rw [slotsRestarted, h]; rfl⟩

theorem restartNotify_slot (cancelled : Bool) (s : State) (i : Fin 16) :
    (restartNotify cancelled s).slot i = s.slot i := rfl

theorem restartNotify_port (cancelled : Bool) (s : State) (p : Fin 4) :
    (restartNotify cancelled s).port p = s.port p := rfl

theorem slotsRestarted_slot (s : State) (i : Fin 16) :
    (slotsRestarted s).slot i = (s.slot i).restarted (s.governing i) := by
  rw [slotsRestarted, restartNotify_slot, forSlots_restartSlot_slot]
  rfl

theorem slotsRestarted_port (s : State) (p : Fin 4) :
    (slotsRestarted s).port p = { s.port p with reservations := (s.port p).reservations - s.activeOn p } := by
  rw [slotsRestarted, restartNotify_port, forSlots_restartSlot_port]
  rfl

theorem restartPart_eq (s : State) :
    restartPart s =
      ({ reportRecovered (recoveredPorts (slotsRestarted s)) (forPorts restartPort (slotsRestarted s)) with
          responses := [] }, .done) := by
  unfold restartPart
  rw [restartReceiver_eq]
  rfl

theorem restartPart_slot (s : State) (i : Fin 16) :
    (restartPart s).1.slot i = (s.slot i).restarted (s.governing i) := by
  obtain ⟨ports, free, fault, h⟩ := forPorts_restartPort_rest (slotsRestarted s)
  rw [← slotsRestarted_slot, restartPart_eq]
  generalize slotsRestarted s = v at h ⊢
  rw [reportRecovered_eq, h]
  rfl

theorem restartPart_port (s : State) (p : Fin 4) :
    (restartPart s).1.port p =
      { (s.port p).restarted with reservations := (s.port p).reservations - s.activeOn p } := by
  have h := forPorts_restartPort_port p (slotsRestarted s)
  rw [slotsRestarted_port] at h
  rw [restartPart_eq, reportRecovered_eq]
  generalize forPorts restartPort (slotsRestarted s) = v at h ⊢
  exact h

/-- The ports that leave STALLED with a stall outstanding, in ascending order. -/
def State.recovering (s : State) : List (Fin 4) :=
  allPorts.filter fun p => (s.port p).leavesStall && (s.port p).stallOutstanding

/-- Everything of the part after a RESTART but its slots and ports. -/
theorem restartPart_rest (s : State) : ∃ (order : List (Fin 4)) (slots : Vector Slot 16) (ports : Vector Port 4),
    order.Perm s.recovering ∧
    (restartPart s).1 = { s with
      receiver := s.receiver.restarted
      pendingBank := none
      slots := slots
      ports := ports
      freeList := s.freeList ++ allPorts.flatMap fun p => (s.port p).waitingBlocks
      notify := s.notifyRestarted.takeAll (s.recoveredEvents order)
      fault := ⟨false, if (s.port s.mgmt).leavesStall then false else s.fault.portTrouble⟩
      responses := []
      choices := s.choices + 1 } := by
  obtain ⟨slots, ports, hslots⟩ := slotsRestarted_rest s
  obtain ⟨ports', free, fault, hports⟩ := forPorts_restartPort_rest (slotsRestarted s)
  have hrecovered : recoveredPorts (slotsRestarted s) = s.recovering := by
    simp only [recoveredPorts, State.recovering, slotsRestarted_port]
    rfl
  have hfree : free = s.freeList ++ allPorts.flatMap fun p => (s.port p).waitingBlocks := by
    have h := forPorts_restartPort_freeList (slotsRestarted s)
    simp only [slotsRestarted_port] at h
    rw [hports, hslots] at h
    exact h
  have hfault : fault = ⟨false, if (s.port s.mgmt).leavesStall then false else s.fault.portTrouble⟩ := by
    have hmgmt : (slotsRestarted s).mgmt = s.mgmt := by rw [hslots]
    have hleaves : ((slotsRestarted s).port s.mgmt).leavesStall = (s.port s.mgmt).leavesStall := by
      rw [slotsRestarted_port]; rfl
    have h := forPorts_restartPort_fault (slotsRestarted s)
    rw [hmgmt, hleaves, hports, hslots] at h
    cases hl : (s.port s.mgmt).leavesStall <;> rw [hl] at h <;> exact h
  refine ⟨orderBy (Config.raisesBefore s.choices) s.recovering, slots, ports', orderBy_perm .., ?_⟩
  rw [restartPart_eq, hrecovered, hports, hslots, reportRecovered_eq, hfree, hfault]
  rfl

/-! ### Hard reset (R105, R126, R127) -/

theorem exec_hardReset (m1 m0 : Bool) (s : State) :
    exec (.hardReset m1 m0) s = conclude s (some (hardReset m1 m0 s)) := rfl

theorem forPorts_flushQueue_port (p : Fin 4) (s : State) :
    (forPorts flushQueue s).port p =
      { s.port p with holding := (s.port p).holding - (s.port p).waitingBlocks.length, queue := [] } :=
  forPorts_port (P := fun _ => True)
    (g := fun _ q => { q with holding := q.holding - q.waitingBlocks.length, queue := [] }) (fun _ _ _ => trivial)
    (fun p r v _ hr => by rw [flushQueue_port, if_neg hr]) (fun p v _ => by rw [flushQueue_port, if_pos rfl]) trivial p

theorem forPorts_flushQueue_freeList (s : State) :
    (forPorts flushQueue s).freeList = s.freeList ++ allPorts.flatMap fun p => (s.port p).waitingBlocks :=
  forPorts_freeList (fun p v => by rw [flushQueue_eq]) (fun p r v hr => by rw [flushQueue_port, if_neg hr]) s

theorem forPorts_flushQueue_rest (s : State) :
    ∃ ports free, forPorts flushQueue s = { s with ports := ports, freeList := free } := by
  refine forPorts_invariant (P := fun v => ∃ ports free, v = { s with ports := ports, freeList := free }) ?_
    ⟨s.ports, s.freeList, rfl⟩
  rintro p v ⟨ports, free, rfl⟩
  rw [flushQueue_eq]
  exact ⟨_, _, rfl⟩

theorem forPorts_hardResetPort_port (p : Fin 4) (s : State) :
    (forPorts hardResetPort s).port p = (s.port p).hardReset :=
  forPorts_port (P := fun _ => True) (g := fun _ q => q.hardReset) (fun _ _ _ => trivial)
    (fun p r v _ hr => by rw [hardResetPort, port_setPort, if_neg hr])
    (fun p v _ => by rw [hardResetPort, port_setPort, if_pos rfl]) trivial p

theorem forPorts_hardResetPort_rest (s : State) : ∃ ports, forPorts hardResetPort s = { s with ports := ports } :=
  forPorts_invariant (P := fun v => ∃ ports, v = { s with ports := ports })
    (by rintro p v ⟨ports, rfl⟩; exact ⟨_, rfl⟩) ⟨s.ports, rfl⟩

theorem forPorts_hardResetLine_line (n : Fin 4) (s : State) :
    (forPorts hardResetLine s).line n = (s.line n).hardReset := by
  have key : ∀ (l : List (Fin 4)), l.Nodup → ∀ v : State, (l.foldl (fun v m => hardResetLine m v) v).line n =
      if n ∈ l then (v.line n).hardReset else v.line n := by
    intro l
    induction l with
    | nil => exact fun _ _ => rfl
    | cons m l ih =>
      intro hd v
      obtain ⟨hm, hl⟩ := List.nodup_cons.mp hd
      rw [List.foldl_cons, ih hl, hardResetLine, line_setLine]
      by_cases hn : n = m
      · subst hn; simp [hm]
      · simp [hn]
  exact (key allPorts (List.nodup_finRange 4) s).trans (if_pos (List.mem_finRange n))

theorem forPorts_hardResetLine_rest (s : State) : ∃ lines, forPorts hardResetLine s = { s with lines := lines } :=
  forPorts_invariant (P := fun v => ∃ lines, v = { s with lines := lines })
    (by rintro p v ⟨lines, rfl⟩; exact ⟨_, rfl⟩) ⟨s.lines, rfl⟩

/-- The part after a hard reset, its ports and lines read one by one. -/
theorem hardReset_rest (m1 m0 : Bool) (s : State) : ∃ (ports : Vector Port 4) (lines : Vector TriggerLine 4),
    (∀ p : Fin 4, ports[p] = (s.port p).hardReset) ∧ (∀ n : Fin 4, lines[n] = (s.line n).hardReset) ∧
    hardReset m1 m0 s = { State.reset with
      freeList := s.freeList ++ allPorts.flatMap fun p => (s.port p).waitingBlocks
      ports := ports
      lines := lines
      mgmt := managementPort m1 m0
      msel1 := m1
      msel0 := m0
      choices := s.choices
      pending := s.pending } := by
  have hport (p : Fin 4) : (forPorts hardResetPort (forPorts flushQueue s)).port p = (s.port p).hardReset := by
    rw [forPorts_hardResetPort_port, forPorts_flushQueue_port]
    rfl
  have hline := fun n => forPorts_hardResetLine_line n (forPorts hardResetPort (forPorts flushQueue s))
  have hfree := forPorts_flushQueue_freeList s
  obtain ⟨ports, free, hflush⟩ := forPorts_flushQueue_rest s
  obtain ⟨ports', hports⟩ := forPorts_hardResetPort_rest (forPorts flushQueue s)
  obtain ⟨lines, hlines⟩ := forPorts_hardResetLine_rest (forPorts hardResetPort (forPorts flushQueue s))
  unfold hardReset
  dsimp only
  rw [hlines] at hline ⊢
  rw [hports] at hline hport ⊢
  rw [hflush] at hline hport hfree ⊢
  subst hfree
  exact ⟨ports', lines, hport, hline, rfl⟩

end Sys2Proof.Machine
end

section
/-! The statements about RESTART (section 8.7) and hard reset, settled. -/

namespace Sys2Proof.Machine

theorem exec_restart (tag : Byte) (s : State) :
    exec (.restart tag []) s = conclude s (takeCommand tag 0x7f (some restartPart) s) := rfl

/-- The part as a command is taken (R137, R164): receiver, notification unit and fault line alone may have moved. -/
theorem taken_rest (s : State) :
    s.taken = { s with receiver := s.taken.receiver, notify := s.taken.notify, fault := s.taken.fault } := by
  simp only [State.taken, leaveSilent_eq, handOff_eq]

theorem taken_settings (s : State) : s.taken.notify.settings = s.notify.settings := by
  simp only [State.taken, leaveSilent_eq, handOff_eq]
  split <;> rfl

theorem taken_frameNumber (s : State) : s.taken.receiver.frameNumber = s.receiver.frameNumber := by
  simp only [State.taken, leaveSilent_eq, handOff_eq]

theorem taken_eventOf (s : State) (c : EventClass) (sub : Subject) (hi lo : Byte) :
    s.taken.eventOf c sub hi lo = s.eventOf c sub hi lo :=
  eventOf_congr (taken_frameNumber s) (taken_settings s) ..

theorem taken_receiver_restarted (s : State) : s.taken.receiver.restarted = s.receiver.restarted := by
  simp only [State.taken, leaveSilent_eq, handOff_eq, Receiver.restarted]
  cases s.receiver.state <;> rfl

theorem taken_notifyRestarted (s : State) : s.taken.notifyRestarted = s.notifyRestarted := by
  unfold State.notifyRestarted
  rw [taken_eventOf, taken_pendingBank]
  simp only [State.taken, leaveSilent_eq, handOff_eq]
  split <;> rfl

theorem taken_portTrouble (s : State) : s.taken.fault.portTrouble = s.fault.portTrouble := by
  simp only [State.taken, leaveSilent_eq, handOff_eq]
  split <;> rfl

/-- The statement's condition for a port that has recovered. -/
theorem leavesStall_iff (q : Port) : q.leavesStall = true ↔ q.state = .stalled ∧ q.restartState ≠ .recovering := by
  simp [Port.leavesStall]

theorem restartState_eq (q : Port) :
    q.restartState =
      if q.state = .disabled then .disabled
      else if q.openSet ≠ 0 ∨ q.transmission ≠ none then .recovering
      else if q.ready then .idle else .held := by
  simp only [Port.restartState, Port.restState, Option.isSome_iff_ne_none]

/-- Settles O41: the part after a RESTART, slot by slot, port by port, and the rest. -/
theorem restartBringsEveryBlockBack : Obligations.RestartBringsEveryBlockBack := by
  intro tag s hs
  obtain ⟨t, ht, hends⟩ := ends_of_reply (exec_restart tag s) hs (r := .done) (u := (restartPart s.taken).1) rfl
  have hslot := restartPart_slot s.taken
  have hport := restartPart_port s.taken
  obtain ⟨order, slots, ports, hperm, hrest⟩ := restartPart_rest s.taken
  rw [hrest] at hends hslot hport
  refine ⟨_, t, order, ht, hends, ?_⟩
  intro next leaves
  have hnext (p : Fin 4) : (s.port p).restartState = next p := restartState_eq _
  have hleaves (p : Fin 4) : (s.port p).leavesStall = decide (leaves p) := by
    rw [Bool.eq_iff_iff, leavesStall_iff, hnext, decide_eq_true_iff]
  refine ⟨taken_receiver_restarted s, rfl, fun i => ?_, fun p => ?_, ?_, ?_, ?_, ?_, rfl, ?_⟩
  · exact (hslot i).trans (by rw [taken_slot, taken_governing]; rfl)
  · refine (hport p).trans ?_
    have hactive : s.taken.activeOn p = s.activeOn p := by simp only [State.activeOn, taken_slot]
    rw [taken_port, hactive, Port.restarted, hnext, hleaves]
    simp only [Port.waitingBlocks, List.length_flatMap, List.length_map, decide_eq_true_eq]
  · have hfree : s.taken.freeList = s.freeList := by rw [taken_rest]
    simp only [taken_port, hfree]
    exact .refl _
  · have hrecovering : s.taken.recovering =
        (List.finRange 4).filter fun p => decide (leaves p) && (s.port p).stallOutstanding := by
      simp only [State.recovering, taken_port, hleaves]
      rfl
    exact hrecovering ▸ hperm
  · have hevents : s.taken.recoveredEvents order = order.map fun p => s.eventOf .portState (.port p) 2 0 := by
      simp only [State.recoveredEvents, taken_eventOf]
    change s.taken.notifyRestarted.takeAll _ = _
    rw [hevents, taken_notifyRestarted]
    unfold State.notifyRestarted
    cases s.pendingBank <;> rfl
  · change FaultConditions.mk _ _ = _
    rw [taken_portTrouble, taken_mgmt, taken_port, hleaves]
    simp only [decide_eq_true_eq]
  · rw [taken_rest]
    rfl

/-- Settles O60: the part after a hard reset; its ports and lines are those of the model, field by field. -/
theorem hardResetRestoresEveryBlock : Obligations.HardResetRestoresEveryBlock := by
  intro m1 m0 s
  obtain ⟨t, ht, hends⟩ := ends_of_effect (exec_hardReset m1 m0 s) rfl
  obtain ⟨ports, lines, hport, hline, hrest⟩ := hardReset_rest m1 m0 s
  rw [hrest] at hends
  refine ⟨_, t, ht, hends, rfl, rfl, fun b i => ?_, rfl, rfl, fun i => ?_, fun p => ?_, .refl _, ?_, rfl, rfl,
    fun n => ?_, rfl, rfl, rfl, rfl, rfl⟩
  · simp [State.entry, State.reset, Entry.reset]
  · simp [State.slot, State.reset, Slot.reset]
  · refine (hport p).trans ?_
    unfold Port.hardReset
    cases (s.port p).transmission <;> rfl
  · cases m1 <;> cases m0 <;> rfl
  · exact hline n

end Sys2Proof.Machine
end

section
/-! SUPPORT. A segment cut and an INFO line copied (Chapter 5), and the start of a frame (section 2.5), said once. -/

namespace Sys2Proof.Machine

/-! ### The two enqueue conditions (R93, R100) -/

/-- The line store grants k blocks to a port (R100). -/
def State.grants (s : State) (p : Fin 4) (k : Nat) : Prop :=
  k = 0 ∨ (k ≤ s.freeList.length ∧ (s.port p).holding + k ≤ (s.port p).ceiling)

theorem length_take_of_grants {s : State} {p : Fin 4} {k : Nat} (h : s.grants p k) : (s.freeList.take k).length = k := by
  rw [List.length_take]
  rcases h with rfl | ⟨h, -⟩ <;> omega

theorem claim_granted {s : State} {p : Fin 4} {k : Nat} (hplace : (s.port p).queued + (s.port p).reservations < 128)
    (hgrants : s.grants p k) :
    claim p k s = .ok (s.freeList.take k,
      { s.setPort p { s.port p with holding := (s.port p).holding + k } with freeList := s.freeList.drop k }) := by
  rw [claim_eq, if_pos hplace]
  exact if_pos hgrants

/-- A full queue is the cause before a missing block (R93). -/
theorem claim_refused {s : State} {p : Fin 4} {k : Nat}
    (h : ¬((s.port p).queued + (s.port p).reservations < 128 ∧ s.grants p k)) :
    claim p k s = .error (if (s.port p).queued + (s.port p).reservations < 128 then 3 else 2) := by
  rw [claim_eq]
  by_cases hplace : (s.port p).queued + (s.port p).reservations < 128
  · rw [if_pos hplace, if_pos hplace]
    exact if_neg fun hgrants => h ⟨hplace, hgrants⟩
  · rw [if_neg hplace, if_neg hplace]

/-! ### The bytes of a segment (R93) -/

theorem le_mul_ceilDiv (n : Nat) {d : Nat} (hd : 0 < d) : n ≤ d * ceilDiv n d := by
  have h := Nat.lt_div_mul_add (a := n + d - 1) hd
  rw [ceilDiv, Nat.mul_comm]
  omega

theorem length_packSamples (depth : BitVec 2) (samples : List Half) :
    (packSamples depth samples).length = samples.length * sampleBytes depth := by
  have hone (x : Half) : (sampleToBytes depth x).length = sampleBytes depth := by
    unfold sampleToBytes sampleBytes
    split <;> rfl
  simp [packSamples, List.length_flatMap, hone]

theorem packSamples_fits (depth : BitVec 2) (segment : List Half) :
    (packSamples depth segment).length ≤ 64 * sampleBytes depth * pixelBlocks segment.length := by
  rw [length_packSamples, pixelBlocks, Nat.mul_right_comm]
  exact Nat.mul_le_mul_right _ (le_mul_ceilDiv _ (by decide))

/-! ### A slot's context rewritten -/

theorem updateContext_active {i : Fin 16} {s : State} {c : WindowContext} (h : (s.slot i).state = .active c)
    (f : WindowContext → WindowContext) :
    updateContext i f s = s.setSlot i { s.slot i with state := .active (f c) } := by
  simp only [updateContext, h]

/-- The context once the segment of a row has been cut: CLIPPED if the segment is short (R91). -/
def WindowContext.markedBy (c : WindowContext) (segment : List Half) : WindowContext :=
  { c with clipped := c.clipped || decide (segment.length < c.outputWidth) }

section
variable {i : Fin 16} {s : State} {c : WindowContext} (h : (s.slot i).state = .active c)
include h

theorem markClipped (segment : List Half) :
    (if segment.length < c.outputWidth then updateContext i (fun c => { c with clipped := true }) s else s) =
      s.setSlot i { s.slot i with state := .active (c.markedBy segment) } := by
  by_cases hshort : segment.length < c.outputWidth
  · rw [if_pos hshort, updateContext_active h]
    simp [WindowContext.markedBy, hshort]
  · have hsame : ({ s.slot i with state := .active (c.markedBy segment) } : Slot) = s.slot i := by
      simp only [WindowContext.markedBy, hshort, decide_false, Bool.or_false]
      rw [← h]
    rw [if_neg hshort, hsame, setSlot_self]

/-- A covered row whose segment finds its place and its blocks (R92, R94). -/
theorem cutSegment_enqueued {depth : BitVec 2} {r : Nat} {samples : List Half}
    (hplace : (s.port c.port).queued + (s.port c.port).reservations < 128)
    (hgrants : s.grants c.port (pixelBlocks (c.segment samples).length)) :
    cutSegment depth r samples i c s =
      { (s.setPort c.port { s.port c.port with
          queue := (s.port c.port).queue ++ [c.pixelRecord depth r (c.segment samples)
            (s.freeList.take (pixelBlocks (c.segment samples).length))]
          holding := (s.port c.port).holding + pixelBlocks (c.segment samples).length }).setSlot i
        { s.slot i with
          state := .active { c.markedBy (c.segment samples) with rowsDelivered := c.rowsDelivered + 1 } } with
        freeList := s.freeList.drop (pixelBlocks (c.segment samples).length) } := by
  unfold cutSegment
  dsimp only
  rw [markClipped h, claim_granted (by exact hplace) (by exact hgrants)]
  dsimp only
  rw [updateContext_active (c := c.markedBy (c.segment samples))
    (show _ = _ from congrArg Slot.state ((slot_setSlot s i i _).trans (if_pos rfl)))]
  simp only [State.setSlot, State.setPort, enqueue, State.port, State.slot, Fin.getElem_fin, Vector.set_set,
    Vector.getElem_set_self]
  rfl

/-- A covered row that does not (R95). -/
theorem cutSegment_dropped {depth : BitVec 2} {r : Nat} {samples : List Half}
    (hrefused : ¬((s.port c.port).queued + (s.port c.port).reservations < 128 ∧
      s.grants c.port (pixelBlocks (c.segment samples).length))) :
    cutSegment depth r samples i c s =
      { (s.setPort c.port { s.port c.port with rowsDropped := satInc (s.port c.port).rowsDropped }).setSlot i
        { s.slot i with state := .active { c.markedBy (c.segment samples) with deficient := true } } with
        notify := s.notify.takeAll [s.eventOf .segmentDropped (.port c.port)
          (if (s.port c.port).queued + (s.port c.port).reservations < 128 then 3 else 2) (BitVec.ofNat 8 i.val)] } := by
  unfold cutSegment
  dsimp only
  rw [markClipped h, claim_refused (by exact hrefused)]
  dsimp only [dropRow]
  rw [updateContext_active (c := c.markedBy (c.segment samples))
    (show _ = _ from congrArg Slot.state ((slot_setSlot s i i _).trans (if_pos rfl))), raiseEvent_eq]
  simp only [State.setSlot, State.setPort, State.port, State.slot, Fin.getElem_fin, Vector.set_set,
    Vector.getElem_set_self]
  rfl

/-! ### The copy of an INFO line (R97, R98) -/

theorem copyInfo_enqueued (hcarries : c.carryInfo = true) {payload : List Byte}
    (hplace : (s.port c.port).queued + (s.port c.port).reservations < 128)
    (hgrants : s.grants c.port (infoBlocks payload.length)) :
    copyInfo payload i s =
      { s.setPort c.port { s.port c.port with
          queue := (s.port c.port).queue ++ [c.infoRecord payload (s.freeList.take (infoBlocks payload.length))]
          holding := (s.port c.port).holding + infoBlocks payload.length } with
        freeList := s.freeList.drop (infoBlocks payload.length) } := by
  simp only [copyInfo, h, hcarries, if_true, claim_granted hplace hgrants]
  simp only [enqueue, State.setPort, State.port, Fin.getElem_fin, Vector.set_set, Vector.getElem_set_self]

theorem copyInfo_dropped (hcarries : c.carryInfo = true) {payload : List Byte}
    (hrefused : ¬((s.port c.port).queued + (s.port c.port).reservations < 128 ∧
      s.grants c.port (infoBlocks payload.length))) :
    copyInfo payload i s =
      { s with notify := s.notify.takeAll [s.eventOf .segmentDropped (.port c.port)
          (if (s.port c.port).queued + (s.port c.port).reservations < 128 then 3 else 2) (BitVec.ofNat 8 i.val)] } := by
  simp only [copyInfo, h, hcarries, if_true, claim_refused hrefused, raiseEvent_eq]
  rfl

end

theorem copyInfo_of_not_carries {i : Fin 16} {s : State}
    (h : ∀ c, (s.slot i).state = .active c → c.carryInfo = false) (payload : List Byte) : copyInfo payload i s = s := by
  unfold copyInfo
  split
  · rename_i c hs
    simp [h c hs]
  · rfl

theorem ingressInfo_inFrame {s : State} (hs : s.receiver.state = .inFrame) (payload : List Byte)
    (during : List (Fin 16 × RowEvent)) : ingressInfo payload during s = some (frameInfo payload during s) := by
  simp only [ingressInfo, hs]

/-! ### Frame start (R30, R55, R66, R69) -/

theorem exec_ingressOpen (depth : BitVec 2) (payload : List Byte) (s : State) :
    exec (.ingressOpen depth payload) s = conclude s (ingressOpen depth payload s) := rfl

/-- A slot reset under its entry (R66). -/
def Slot.resetUnder (e : Entry) (t : Slot) : Slot :=
  { t with armCount := 0, holdOff := 0, frameNumber := 0, state := settledState e 0 }

theorem forSlots_countHoldOff (s : State) :
    forSlots countHoldOff s = s.changeSlots fun _ _ t => { t with holdOff := t.holdOff - 1 } := rfl

theorem switchBank_none {s : State} (h : s.pendingBank = none) : switchBank s = s := by
  simp only [switchBank, h]

theorem switchBank_some {s : State} {b : Fin 4} (h : s.pendingBank = some b) :
    switchBank s =
      raiseEvent .bankSwitched .none (natByte b.val) 0
        (({ s with activeBank := b, pendingBank := none }).changeSlots fun _ e t => t.resetUnder e) := by
  simp only [switchBank, h]
  rfl

/-- The start of a frame up to the openings (R30, R55, R69). -/
theorem frameStarts_countHoldOff (depth : BitVec 2) (payload : List Byte) (s : State) :
    FrameStarts depth payload s
      (forSlots countHoldOff (switchBank (s.setReceiver (s.receiver.startFrame depth payload)))) := by
  rw [forSlots_countHoldOff]
  cases hb : s.pendingBank with
  | none =>
    rw [switchBank_none (s := s.setReceiver (s.receiver.startFrame depth payload)) hb]
    have hslot := changeSlots_slot (change := fun _ _ t => { t with holdOff := t.holdOff - 1 })
      (s.setReceiver (s.receiver.startFrame depth payload))
    have hrest := changeSlots_rest (change := fun _ _ t => { t with holdOff := t.holdOff - 1 })
      (s.setReceiver (s.receiver.startFrame depth payload))
    generalize State.changeSlots _ _ = w at hslot hrest ⊢
    refine ⟨by rw [hrest]; rfl, by rw [hrest, hb]; rfl, fun i => ?_, by rw [hrest, hb]; rfl, ?_⟩
    · rw [hslot, hb]
      rfl
    · rw [hrest, ← hb]
      rfl
  | some b =>
    rw [switchBank_some (s := s.setReceiver (s.receiver.startFrame depth payload)) hb, raiseEvent_eq]
    have hslot := changeSlots_slot (change := fun _ e t => t.resetUnder e)
      { s.setReceiver (s.receiver.startFrame depth payload) with activeBank := b, pendingBank := none }
    have hrest := changeSlots_rest (change := fun _ e t => t.resetUnder e)
      { s.setReceiver (s.receiver.startFrame depth payload) with activeBank := b, pendingBank := none }
    generalize State.changeSlots _ _ = v at hslot hrest ⊢
    have hslot' := changeSlots_slot (change := fun _ _ t => { t with holdOff := t.holdOff - 1 })
      { v with notify := v.notify.takeAll [v.eventOf .bankSwitched .none (natByte b.val) 0] }
    have hrest' := changeSlots_rest (change := fun _ _ t => { t with holdOff := t.holdOff - 1 })
      { v with notify := v.notify.takeAll [v.eventOf .bankSwitched .none (natByte b.val) 0] }
    generalize State.changeSlots _ _ = w at hslot' hrest' ⊢
    refine ⟨?_, ?_, fun i => ?_, ?_, ?_⟩
    · rw [hrest', hrest]; rfl
    · rw [hrest', hrest, hb]; rfl
    · have hv : (State.slot { v with notify := v.notify.takeAll [v.eventOf .bankSwitched .none (natByte b.val) 0] } i) =
          v.slot i := rfl
      have hactive : w.activeBank = b := by rw [hrest', hrest]
      rw [hslot', hv, hslot, hb, hactive]
      rfl
    · rw [hrest', hrest, hb]; rfl
    · rw [hrest', hrest]; rfl

theorem ingressOpen_outside {s : State} (hs : s.receiver.state = .hunting ∨ s.receiver.state = .betweenFrames)
    (depth : BitVec 2) (payload : List Byte) : ingressOpen depth payload s = some (startFrame depth payload s) := by
  rcases hs with hs | hs <;> simp only [ingressOpen, hs]

theorem ingressOpen_inFrame {s : State} (hs : s.receiver.state = .inFrame) (depth : BitVec 2) (payload : List Byte) :
    ingressOpen depth payload s = some (startFrame depth payload (abortFrame .newOpen s)) := by
  simp only [ingressOpen, hs]

end Sys2Proof.Machine
end

section
/-! The statements about covered rows, INFO lines and the start of a frame, settled. -/

namespace Sys2Proof.Machine

/-- Settles O22: `cutSegment` in its two outcomes; the blocks granted hold the whole segment. -/
theorem coveredRowIsEnqueuedOrDropped : Obligations.CoveredRowIsEnqueuedOrDropped := by
  intro depth r samples i s c hc q segment k marked placeFree granted
  refine ⟨fun hplace hgrants => ?_, fun hrefused => cutSegment_dropped hc hrefused⟩
  refine ⟨fillBlocks (64 * sampleBytes depth) (s.freeList.take k) (packSamples depth segment), fillBlocks_ids .., ?_,
    cutSegment_enqueued hc hplace hgrants⟩
  refine fillBlocks_bytes _ _ _ ?_
  rw [length_take_of_grants (p := c.port) hgrants]
  exact packSamples_fits depth segment

/-- Settles O48: a frame in progress is aborted first; then the new frame starts and the slots ask for openings. -/
theorem openStartsAFrame : Obligations.OpenStartsAFrame := by
  refine fun depth payload s => ⟨fun hs => ?_, fun hs => ?_⟩
  · obtain ⟨t, ht, hends⟩ := ends_of_effect (exec_ingressOpen depth payload s) (ingressOpen_outside hs depth payload)
    exact ⟨_, t, frameStarts_countHoldOff depth payload s, ht, hends⟩
  · obtain ⟨t, ht, hends⟩ := ends_of_effect (exec_ingressOpen depth payload s) (ingressOpen_inFrame hs depth payload)
    exact ⟨abortFrame .newOpen s, _, t, frameAborts_abortFrame .newOpen s, frameStarts_countHoldOff depth payload _, ht,
      hends⟩

/-- Settles O51: an INFO line within its limits meets the slots in turn, and each turn is one outcome of `copyInfo`. -/
theorem infoLineIsCopiedWithinItsLimits : Obligations.InfoLineIsCopiedWithinItsLimits := by
  refine ⟨fun payload during s hs => ⟨fun hlength hcount => ?_, fun hlimits => ?_⟩,
    fun payload i s => ⟨fun h => copyInfo_of_not_carries h payload, ?_⟩⟩
  · refine ends_of_effect (exec_ingressInfo ⟨payload, during⟩ s) ((ingressInfo_inFrame hs payload during).trans ?_)
    rw [frameInfo, if_pos ⟨hlength, hcount⟩]
    rfl
  · refine ends_of_effect (exec_ingressInfo ⟨payload, during⟩ s) ((ingressInfo_inFrame hs payload during).trans ?_)
    rw [frameInfo, if_neg (by omega), countedFault_eq]
    rfl
  · intro c hc hcarries q k placeFree granted
    refine ⟨fun hplace hgrants => ?_, fun hrefused => copyInfo_dropped hc hcarries hrefused⟩
    refine ⟨fillBlocks 128 (s.freeList.take k) payload, fillBlocks_ids .., ?_,
      copyInfo_enqueued hc hcarries hplace hgrants⟩
    refine fillBlocks_bytes _ _ _ ?_
    rw [length_take_of_grants (p := c.port) hgrants]
    exact le_mul_ceilDiv _ (by decide)

end Sys2Proof.Machine
end

section
/-! SUPPORT. What a step can do, said once: every command is a chain of acts, each of them one of the operations of the
model with the facts that hold where it is used. A law that each act keeps is kept by every step. -/

namespace Sys2Proof.Machine

/-! ### The acts of the window frames and of the transmitters -/

/-- No slot is ACTIVE. -/
def State.idle (s : State) : Prop := ∀ i : Fin 16, (s.slot i).state.isActive = false

/-- An event raised, the ports settled, or an act on one slot and its port as lines go by. -/
inductive WindowAct : State → State → Prop
  | event (cls : EventClass) (sub : Subject) (hi lo : Byte) (s : State) : WindowAct s (raiseEvent cls sub hi lo s)
  | settle (s : State) : WindowAct s (settle s)
  | endWindow (code : CompletionCode) (i : Fin 16) (s : State) : WindowAct s (endWindow code i s)
  | mark (i : Fin 16) (f : WindowContext → WindowContext) (s : State) (hport : ∀ c, (f c).port = c.port) :
    WindowAct s (updateContext i f s)
  | countDrop (p : Fin 4) (s : State) :
    WindowAct s (s.setPort p { s.port p with rowsDropped := satInc (s.port p).rowsDropped })
  | store (i : Fin 16) (c : WindowContext) (k : Nat) (ids : List Nat) (r : Record) (s u : State)
    (hcontext : (s.slot i).context = some c) (hclaim : claim c.port k s = .ok (ids, u))
    (hblocks : r.blocks.map (·.id) = ids) : WindowAct s (enqueue c.port r u)
  | countHoldOff (i : Fin 16) (s : State) : WindowAct s (countHoldOff i s)
  | askOpening (i : Fin 16) (s : State) (hframe : s.receiver.state = .inFrame) : WindowAct s (askOpening i s)
  | rearm (i : Fin 16) (count : Nat) (s : State) (hcount : (s.slot i).armCount ≤ 15 → count ≤ 15) :
    WindowAct s (s.setSlot i ((s.slot i).withArmCount (s.governing i) count))

/-! ### The acts of the other blocks -/

/-- The receiver law of a receiver and a lock (R2, R19, R37). -/
def Receiver.Lawful (r : Receiver) (lock : Bool) : Prop :=
  r.expectedRow ≤ 4096 ∧ r.infoCount ≤ 4 ∧ (1 ≤ r.silenceTimeout ∧ r.silenceTimeout ≤ 255) ∧
  (r.silenceTimer.isRunning = true ↔ r.state = .inFrame) ∧ (lock = true ↔ r.state ≠ .noSignal)

theorem receiverLaw_iff (s : State) : s.ReceiverLaw ↔ s.receiver.Lawful s.laneLocked := Iff.rfl

/-- The receiver's four counters are 16-bit values (R41). -/
def Receiver.Counts (r : Receiver) : Prop :=
  r.framesTaken ≤ 65535 ∧ r.framesAborted ≤ 65535 ∧ r.lineFaults ≤ 65535 ∧ r.strayLines ≤ 65535

/-- A move of the receiver and the lock, other than the start of a frame. -/
structure ReceiverMove (c : Instr) (s : State) (r : Receiver) (lock : Bool) : Prop where
  lawful : s.receiver.Lawful s.laneLocked → r.Lawful lock
  counts : s.receiver.Counts → r.Counts
  idle : r.state ≠ .inFrame → s.receiver.state ≠ .inFrame ∨ s.idle
  frame : r.frameNumber = s.receiver.frameNumber ∧ r.depth = s.receiver.depth
  timeout : r.silenceTimeout = s.receiver.silenceTimeout ∨ ∃ tag args, c = .setIngress tag args
  locked : lock = s.laneLocked ∨ c = .lockGained ∨ c = .lockLost

/-- A move of the notification unit by one of its own commands or timers, MANAGEMENT_SILENT staying as it is. -/
structure NotifyMove (c : Instr) (n m : NotifyUnit) : Prop where
  lawful : n.Law → m.Law
  silent : m.silent = n.silent
  settings : m.settings = n.settings ∨ ∃ tag args, c = .setEvent tag args
  retry : (m.retryInterval = n.retryInterval ∧ m.retryLimit = n.retryLimit) ∨ ∃ tag args, c = .setNotify tag args

/-- The law of one trigger line (R128, R129). -/
def TriggerLine.Lawful (l : TriggerLine) : Prop :=
  l.edges.length ≤ 2 ∧ (l.mode = .input → (l.filterInterval.isRunning = true ↔ l.pin ≠ l.filteredLevel)) ∧
  (l.mode ≠ .input → l.filterInterval = .stopped)

/-- A move of one trigger line. -/
structure LineMove (c : Instr) (l m : TriggerLine) : Prop where
  lawful : l.Lawful → m.Lawful
  settings : (m.mode = l.mode ∧ m.edge = l.edge ∧ m.filter = l.filter ∧ m.latch = l.latch ∧ m.boundSlot = l.boundSlot) ∨
    ∃ tag args, c = .setLine tag args

/-- The command that an event inside a row is when it comes alone. -/
def commandOfEvent : RowEvent → Instr
  | .completion p => .transmissionComplete p
  | .stall p => .holdTimerExpiry p
  | .recoveryStall p => .recoveryHoldExpiry p
  | .readyRise p => .readyRise p
  | .readyFall p => .readyFall p
  | .restart tag => .restart tag []

/-- The event comes inside the row of the command (R96). -/
def holdsEvent (c : Instr) (e : RowEvent) : Prop :=
  ∃ (i : Fin 16) (during : List (Fin 16 × RowEvent)), (i, e) ∈ during ∧
    ((∃ depth row samples, c = .ingressPixel depth row ⟨samples, during⟩) ∨
      ∃ payload, c = .ingressInfo ⟨payload, during⟩)

/-- One act of a command. -/
inductive Act (c : Instr) : State → State → Prop
  | window {s u : State} (h : WindowAct s u) : Act c s u
  | receiver (r : Receiver) (lock : Bool) (s : State) (h : ReceiverMove c s r lock) :
    Act c s { s with receiver := r, laneLocked := lock }
  | startFrame (depth : BitVec 2) (payload : List Byte) (r : Receiver) (s : State) (hc : c = .ingressOpen depth payload)
    (hr : r = s.receiver ∧ s.receiver.state ≠ .inFrame ∨ r = s.receiver.abort ∧ s.idle)
    (hlines : s.receiver.state ≠ .noSignal) :
    Act c s (switchBank (s.setReceiver (r.startFrame depth payload)))
  | event (e : RowEvent) (s u : State) (hcauses : c = commandOfEvent e ∨ holdsEvent c e) (hport : ∀ tag, e ≠ .restart tag)
    (heffect : eventEffect e s = some u) : Act c s u
  | restart (s : State) (hlines : s.receiver.state ≠ .noSignal) : Act c s (restartPart s).1
  | respond (r : Response) (s : State) (hroom : s.outstanding.length < 16) : Act c s (placeResponse r s)
  | leaveSilent (s : State) : Act c s (leaveSilent s)
  | enterSilent (s : State) : Act c s (enterSilent s)
  | notify (n : NotifyUnit) (s : State) (h : NotifyMove c s.notify n) : Act c s (s.setNotify n)
  | line (n : Fin 4) (l : TriggerLine) (s : State) (h : LineMove c (s.line n) l) : Act c s (s.setLine n l)
  | clearSlot (i : Fin 16) (s : State) : Act c s (clearSlot i s)
  | clearPort (p : Fin 4) (s : State) : Act c s (clearPort p s)
  | writeEntry (b : Fin 4) (i : Fin 16) (e : Entry) (s : State) (hc : ∃ tag args, c = .writeEntry tag args)
    (he : e.Legal) : Act c s (writeEntry b i e s).1
  | selectBank (b : Fin 4) (s : State) : Act c s (selectBank b s).1
  | setPort (a : PortSettings) (s : State) (hc : ∃ tag args, c = .setPort tag args) (hceiling : a.ceiling ≤ 1024)
    (htimeout : a.holdTimeout ≤ 1000) : Act c s (setPort a s).1
  | hardReset (m1 m0 : Bool) (s : State) (hc : c = .hardReset m1 m0) : Act c s (hardReset m1 m0 s)

/-- Acts of a command, one after the other. -/
abbrev Acts (c : Instr) : State → State → Prop := Relation.ReflTransGen (Act c)

section
variable {c : Instr}

theorem WindowAct.acts {s u : State} (h : WindowAct s u) : Acts c s u := .single (.window h)

theorem acts_forSlots {f : Fin 16 → State → State} (h : ∀ i v, Acts c v (f i v)) (s : State) :
    Acts c s (forSlots f s) :=
  forSlots_invariant (P := Acts c s) (fun i v hv => hv.trans (h i v)) .refl

theorem acts_forPorts {f : Fin 4 → State → State} (h : ∀ p v, Acts c v (f p v)) (s : State) :
    Acts c s (forPorts f s) :=
  forPorts_invariant (P := Acts c s) (fun p v hv => hv.trans (h p v)) .refl

/-- Acts that do not move the lock. -/
theorem acts_setReceiver {s : State} {r : Receiver} (h : ReceiverMove c s r s.laneLocked) : Acts c s (s.setReceiver r) :=
  .single (.receiver r s.laneLocked s h)

/-! ### Moves of the receiver that stay in its state -/

/-- Counters that count on, and nothing else. -/
theorem ReceiverMove.count {s : State} {faults stray : Nat} (hfaults : s.receiver.lineFaults ≤ 65535 → faults ≤ 65535)
    (hstray : s.receiver.strayLines ≤ 65535 → stray ≤ 65535) :
    ReceiverMove c s { s.receiver with lineFaults := faults, strayLines := stray } s.laneLocked where
  lawful h := h
  counts := fun ⟨htaken, haborted, hlf, hsl⟩ => ⟨htaken, haborted, hfaults hlf, hstray hsl⟩
  idle := .inl
  frame := ⟨rfl, rfl⟩
  timeout := .inl rfl
  locked := .inl rfl

theorem satInc_le (n : Nat) : satInc n ≤ 65535 := Nat.min_le_right ..

/-- Progress inside a frame: the expected row and the INFO count within their bounds, the silence timer running. -/
theorem ReceiverMove.progress {s : State} {row info : Nat} {timer : Timer} (hframe : s.receiver.state = .inFrame)
    (hrow : s.receiver.expectedRow ≤ 4096 → row ≤ 4096) (hinfo : s.receiver.infoCount ≤ 4 → info ≤ 4)
    (htimer : s.receiver.silenceTimer.isRunning = true → timer.isRunning = true) :
    ReceiverMove c s { s.receiver with expectedRow := row, infoCount := info, silenceTimer := timer }
      s.laneLocked where
  lawful := fun ⟨hr, hi, hout, htime, hlock⟩ =>
    ⟨hrow hr, hinfo hi, hout, iff_of_true (htimer (htime.mpr hframe)) hframe, hlock⟩
  counts h := h
  idle h := absurd hframe h
  frame := ⟨rfl, rfl⟩
  timeout := .inl rfl
  locked := .inl rfl

/-- A receiver that leaves its frame, every window frame ended, or that was in none: its timer stopped, in a state that
the lock allows. -/
theorem ReceiverMove.leave {s : State} {r : Receiver} {lock : Bool} {aborted : Nat} {state : ReceiverState}
    {timer : Timer}
    (hr : r = { s.receiver with state := state, silenceTimer := timer, framesAborted := aborted })
    (hstate : state ≠ .inFrame) (htimer : s.receiver.state = .inFrame ∧ s.idle ∧ timer = .stopped ∨
      s.receiver.state ≠ .inFrame ∧ timer = s.receiver.silenceTimer)
    (haborted : s.receiver.framesAborted ≤ 65535 → aborted ≤ 65535)
    (hlock : s.receiver.Lawful s.laneLocked → (lock = true ↔ state ≠ .noSignal))
    (hlocked : lock = s.laneLocked ∨ c = .lockGained ∨ c = .lockLost) : ReceiverMove c s r lock := by
  subst hr
  refine ⟨fun hlaw => ?_, fun ⟨htaken, hab, hfaults, hstray⟩ => ⟨htaken, haborted hab, hfaults, hstray⟩, fun _ => ?_,
    ⟨rfl, rfl⟩, .inl rfl, hlocked⟩
  · obtain ⟨hrow, hinfo, hout, hrun, -⟩ := id hlaw
    refine ⟨hrow, hinfo, hout, iff_of_false ?_ hstate, hlock hlaw⟩
    rcases htimer with ⟨-, -, rfl⟩ | ⟨hout', rfl⟩
    · simp [Timer.isRunning]
    · exact mt hrun.mp hout'
  · rcases htimer with ⟨-, hidle, -⟩ | ⟨hout, -⟩
    · exact .inr hidle
    · exact .inl hout

/-! ### The frame's window frames end, and the receiver moves after them -/

/-- Where each slot's turn leaves the receiver alone and reads nothing of it but its frame number, the receiver may be
moved before or after the turns. -/
theorem forSlots_setReceiver {f : Fin 16 → State → State} {r : Receiver}
    (hkeeps : ∀ i v, (f i v).receiver = v.receiver)
    (hpasses : ∀ i v, v.receiver.frameNumber = r.frameNumber → f i (v.setReceiver r) = (f i v).setReceiver r)
    {s : State} (hs : s.receiver.frameNumber = r.frameNumber) :
    forSlots f (s.setReceiver r) = (forSlots f s).setReceiver r := by
  unfold forSlots
  generalize allSlots = l
  induction l generalizing s with
  | nil => rfl
  | cons i l ih =>
    rw [List.foldl_cons, List.foldl_cons, hpasses i s hs]
    exact ih (by rw [hkeeps, hs])

theorem raiseEvent_setReceiver (cls : EventClass) (sub : Subject) (hi lo : Byte) {s : State} {r : Receiver}
    (hs : s.receiver.frameNumber = r.frameNumber) :
    raiseEvent cls sub hi lo (s.setReceiver r) = (raiseEvent cls sub hi lo s).setReceiver r := by
  rw [raiseEvent_eq, raiseEvent_eq, eventOf_congr (s := s) (u := s.setReceiver r) hs.symm rfl]
  rfl

theorem endWindow_setReceiver (code : CompletionCode) (i : Fin 16) {s : State} {r : Receiver}
    (hs : s.receiver.frameNumber = r.frameNumber) :
    endWindow code i (s.setReceiver r) = (endWindow code i s).setReceiver r := by
  unfold endWindow
  rw [setReceiver_slot]
  cases (s.slot i).state with
  | active x =>
    change settleSlot i (raiseEvent _ _ _ _ (State.setReceiver
      (releaseReservation x.port (enqueue x.port (x.closeRecord code) s)) r)) = _
    rw [raiseEvent_setReceiver _ _ _ _ (by exact hs)]
    rfl
  | _ => rfl

theorem updateContext_setReceiver (i : Fin 16) (f : WindowContext → WindowContext) (s : State) (r : Receiver) :
    updateContext i f (s.setReceiver r) = (updateContext i f s).setReceiver r := by
  unfold updateContext
  rw [setReceiver_slot]
  cases (s.slot i).state <;> rfl

theorem endAtFrameEnd_setReceiver (i : Fin 16) {s : State} {r : Receiver} (hs : s.receiver.frameNumber = r.frameNumber) :
    endAtFrameEnd i (s.setReceiver r) = (endAtFrameEnd i s).setReceiver r := by
  unfold endAtFrameEnd
  rw [updateContext_setReceiver]
  exact endWindow_setReceiver _ _ (by rw [(movesWindows_updateContext ..).receiver, hs])

theorem movesWindows_endAtFrameEnd (i : Fin 16) (s : State) : MovesWindows s (endAtFrameEnd i s) :=
  (movesWindows_endWindow ..).trans (movesWindows_updateContext ..)

/-- A slot whose window frame, if it had one in progress, has ended. -/
def Slot.ended (e : Entry) (t : Slot) : Slot :=
  if t.state.isActive then { t with state := settledState e t.armCount } else t

theorem Slot.ended_not_active (e : Entry) (t : Slot) : (t.ended e).state.isActive = false := by
  unfold Slot.ended
  split
  · exact settledState_not_active ..
  · rename_i h; simpa using h

theorem endWindow_slot_ended (code : CompletionCode) (i : Fin 16) (s : State) :
    (endWindow code i s).slot i = (s.slot i).ended (s.governing i) := by
  unfold Slot.ended
  split
  · rename_i h; exact endWindow_slot_self h code
  · rename_i h; rw [endWindow_of_not_active (by simpa using h)]

theorem updateContext_slot (i j : Fin 16) (f : WindowContext → WindowContext) (s : State) :
    (updateContext i f s).slot j =
      if j = i then
        match (s.slot i).state with
        | .active c => { s.slot i with state := .active (f c) }
        | _ => s.slot i
      else s.slot j := by
  unfold updateContext
  cases hs : (s.slot i).state with
  | active c => rw [slot_setSlot]
  | _ => by_cases hj : j = i <;> simp [hj]

theorem endAtFrameEnd_slot_ended (i : Fin 16) (s : State) :
    (endAtFrameEnd i s).slot i = (s.slot i).ended (s.governing i) := by
  rw [endAtFrameEnd, endWindow_slot_ended, (movesWindows_updateContext ..).governing, updateContext_slot, if_pos rfl]
  unfold Slot.ended
  cases hs : (s.slot i).state <;> simp [hs, SlotState.isActive]

theorem endAtFrameEnd_slot_of_ne {i j : Fin 16} (hji : j ≠ i) (s : State) : (endAtFrameEnd i s).slot j = s.slot j := by
  rw [endAtFrameEnd, endWindow_slot_of_ne hji.symm, updateContext_slot, if_neg hji]

/-- Where each slot's turn ends its own window frame, no slot is ACTIVE after them all. -/
theorem idle_forSlots {f : Fin 16 → State → State} (hmoves : ∀ i v, MovesWindows v (f i v))
    (hother : ∀ i j v, j ≠ i → (f i v).slot j = v.slot j)
    (hown : ∀ i v, (f i v).slot i = (v.slot i).ended (v.governing i)) (s : State) : (forSlots f s).idle := by
  intro i
  rw [forSlots_slot (P := fun v => ∀ j, v.governing j = s.governing j) (f := f)
    (g := fun i t => t.ended (s.governing i)) (fun i v hv j => by rw [(hmoves i v).governing, hv])
    (fun i j v _ hj => hother i j v hj) (fun i v hv => by rw [hown, hv]) (fun _ => rfl) i]
  exact Slot.ended_not_active ..

theorem idle_endWindows (code : CompletionCode) (s : State) : (forSlots (endWindow code) s).idle :=
  idle_forSlots (movesWindows_endWindow code) (fun _ _ v hj => endWindow_slot_of_ne hj.symm code v)
    (endWindow_slot_ended code) s

theorem idle_announceFrameEnd (s : State) : (announceFrameEnd s).idle :=
  idle_forSlots movesWindows_endAtFrameEnd (fun _ _ v hj => endAtFrameEnd_slot_of_ne hj v) endAtFrameEnd_slot_ended s

/-- The window frames of an aborted frame, ended and reported (R79). -/
def abortWindows (cause : AbortCause) (s : State) : State :=
  raiseEvent .frameAborted .none cause.code 0 (forSlots (endWindow .aborted) s)

/-- The receiver's own part of an abort may come last. -/
theorem abortFrame_eq (cause : AbortCause) (s : State) :
    abortFrame cause s = (abortWindows cause s).setReceiver s.receiver.abort := by
  unfold abortFrame announceFrameAbort abortWindows
  rw [forSlots_setReceiver (fun i v => (movesWindows_endWindow .aborted i v).receiver)
    (fun i v hv => endWindow_setReceiver .aborted i hv) (by rfl)]
  refine raiseEvent_setReceiver _ _ _ _ ?_
  rw [(movesWindows_forSlots (movesWindows_endWindow .aborted) s).receiver]
  rfl

theorem movesWindows_abortWindows (cause : AbortCause) (s : State) : MovesWindows s (abortWindows cause s) :=
  (movesWindows_raiseEvent ..).trans (movesWindows_forSlots (movesWindows_endWindow .aborted) s)

theorem idle_abortWindows (cause : AbortCause) (s : State) : (abortWindows cause s).idle := by
  have h := idle_endWindows .aborted s
  unfold abortWindows
  generalize forSlots (endWindow .aborted) s = v at h ⊢
  rw [raiseEvent_eq]
  exact h

theorem acts_abortWindows (cause : AbortCause) (s : State) : Acts c s (abortWindows cause s) := by
  have h : Acts c s (forSlots (endWindow .aborted) s) :=
    acts_forSlots (fun i v => (WindowAct.endWindow .aborted i v).acts) s
  unfold abortWindows
  generalize forSlots (endWindow .aborted) s = v at h ⊢
  exact h.trans (WindowAct.event ..).acts

theorem frameClose_eq (s : State) :
    frameClose s =
      (announceFrameEnd s).setReceiver { s.receiver with state := .betweenFrames, silenceTimer := .stopped } := by
  unfold frameClose announceFrameEnd
  rw [forSlots_setReceiver (fun i v => (movesWindows_endAtFrameEnd i v).receiver)
    (fun i _ hv => endAtFrameEnd_setReceiver i hv) (by rfl)]

theorem acts_announceFrameEnd (s : State) : Acts c s (announceFrameEnd s) := by
  unfold announceFrameEnd
  refine acts_forSlots (fun i v => ?_) s
  exact (WindowAct.mark i (fun x => { x with clipped := true }) v fun _ => rfl).acts.trans
    (WindowAct.endWindow .complete i _).acts

end

end Sys2Proof.Machine
end

section
/-! SUPPORT. The commands as chains of acts, block by block: the ingress receiver, the rows, the commands taken, the ports
and the trigger lines. -/

namespace Sys2Proof.Machine

variable {c : Instr}

/-! ### The ingress receiver (Chapter 2) -/

theorem countedFault_acts (cause kind : Byte) (s : State) : Acts c s (countedFault cause kind s) :=
  (WindowAct.event ..).acts.trans (acts_setReceiver (.count (fun _ => satInc_le _) id))

theorem strayLine_acts (k : LineKind) (s : State) : Acts c s (strayLine k s) := by
  have h : Acts c s (if s.receiver.state = .hunting then s else raiseEvent .lineFault .none 3 (kindByte k) s) := by
    split
    · exact .refl
    · exact (WindowAct.event ..).acts
  exact h.trans (acts_setReceiver (.count id fun _ => satInc_le _))

theorem MovesWindows.laneLocked {s u : State} (h : MovesWindows s u) : u.laneLocked = s.laneLocked := by rw [h.rest]

/-- The lock of a lawful receiver in a frame is held (R2). -/
theorem Receiver.Lawful.locked {r : Receiver} {lock : Bool} (h : r.Lawful lock) (hs : r.state ≠ .noSignal) :
    lock = true := by
  obtain ⟨-, -, -, -, hlock⟩ := h
  exact hlock.mpr hs

/-- A frame in progress that is aborted and left: its window frames end, and then the receiver takes its next state. -/
theorem abort_acts (cause : AbortCause) {s : State} (hframe : s.receiver.state = .inFrame) {state : ReceiverState}
    {lock : Bool} (hstate : state ≠ .inFrame)
    (hlock : s.receiver.Lawful s.laneLocked → (lock = true ↔ state ≠ .noSignal))
    (hlocked : lock = s.laneLocked ∨ c = .lockGained ∨ c = .lockLost) :
    Acts c s { abortWindows cause s with
      receiver := { s.receiver.abort with state := state }, laneLocked := lock } := by
  have hmoves := movesWindows_abortWindows cause s
  have hidle := idle_abortWindows cause s
  refine (acts_abortWindows cause s).trans ?_
  generalize abortWindows cause s = v at hmoves hidle ⊢
  refine .single (.receiver _ lock v ?_)
  rw [← hmoves.receiver, ← hmoves.laneLocked] at hlock
  rw [← hmoves.laneLocked] at hlocked
  rw [← hmoves.receiver] at hframe ⊢
  exact .leave rfl hstate (.inl ⟨hframe, hidle, rfl⟩) (fun _ => satInc_le _) hlock hlocked

/-- The same where the lock stays. -/
theorem abort_acts_locked (cause : AbortCause) {s : State} (hframe : s.receiver.state = .inFrame)
    {state : ReceiverState} (hstate : state ≠ .inFrame) (hlines : state ≠ .noSignal) :
    Acts c s ((abortFrame cause s).setReceiverState state) := by
  have h := abort_acts (c := c) cause hframe hstate (lock := s.laneLocked)
    (fun hlaw => iff_of_true (hlaw.locked (by rw [hframe]; decide)) hlines) (.inl rfl)
  rw [abortFrame_eq]
  rw [← (movesWindows_abortWindows cause s).laneLocked] at h
  generalize abortWindows cause s = v at h ⊢
  exact h

theorem lockGained_acts {s u : State} (hc : c = .lockGained) (h : lockGained s = some u) : Acts c s u := by
  unfold lockGained at h
  split at h
  case isFalse => cases h
  case isTrue hs =>
    obtain rfl := Option.some.inj h
    refine .trans (.single (.receiver { s.receiver with state := .hunting } true s ?_)) (WindowAct.event ..).acts
    exact .leave (timer := s.receiver.silenceTimer) (aborted := s.receiver.framesAborted) rfl (by decide)
      (.inr ⟨by rw [hs]; decide, rfl⟩) id (fun _ => by decide) (.inr (.inl hc))

/-- Lock lost outside a frame. -/
theorem loseLock_acts {s : State} (hc : c = .lockLost) (hs : s.receiver.state ≠ .inFrame) : Acts c s (loseLock s) := by
  refine .trans (.single (.receiver { s.receiver with state := .noSignal } false s ?_)) (WindowAct.event ..).acts
  exact .leave (timer := s.receiver.silenceTimer) (aborted := s.receiver.framesAborted) rfl (by decide)
    (.inr ⟨hs, rfl⟩) id (fun _ => by decide) (.inr (.inr hc))

theorem lockLost_acts {s u : State} (hc : c = .lockLost) (h : lockLost s = some u) : Acts c s u := by
  cases hs : s.receiver.state <;> simp only [lockLost, hs, Option.some.injEq, reduceCtorEq] at h <;> subst h
  case inFrame =>
    have hleave := abort_acts (c := c) .signalLost hs (state := .noSignal) (lock := false) (by decide)
      (fun _ => by decide) (.inr (.inr hc))
    rw [abortFrame_eq]
    generalize abortWindows .signalLost s = v at hleave ⊢
    exact hleave.trans (WindowAct.event ..).acts
  all_goals exact loseLock_acts hc (by rw [hs]; decide)

theorem headerFault_acts {s u : State} (h : headerFault s = some u) : Acts c s u := by
  cases hs : s.receiver.state <;> simp only [headerFault, hs, Option.some.injEq, reduceCtorEq] at h <;> subst h
  case hunting => exact .refl
  case betweenFrames =>
    refine .trans (acts_setReceiver (r := { s.receiver with state := .hunting }) ?_) (countedFault_acts ..)
    exact .leave (timer := s.receiver.silenceTimer) (aborted := s.receiver.framesAborted) rfl (by decide)
      (.inr ⟨by rw [hs]; decide, rfl⟩) id
      (fun hlaw => iff_of_true (hlaw.locked (by rw [hs]; decide)) (by decide)) (.inl rfl)
  case inFrame => exact (abort_acts_locked .syncFault hs (by decide) (by decide)).trans (countedFault_acts ..)

theorem frameSilence_acts {s u : State} (h : frameSilence s = some u) : Acts c s u := by
  unfold frameSilence at h
  split at h
  case isFalse => cases h
  case isTrue hs =>
    obtain rfl := Option.some.inj h
    exact abort_acts_locked .silence hs.1 (by decide) (by decide)

theorem strayControl_acts {s u : State} (h : strayControl s = some u) : Acts c s u := by
  unfold strayControl at h
  split at h
  · cases h
  · obtain rfl := Option.some.inj h
    exact strayLine_acts ..

theorem movesWindows_announceFrameEnd (s : State) : MovesWindows s (announceFrameEnd s) := by
  unfold announceFrameEnd
  exact movesWindows_forSlots movesWindows_endAtFrameEnd s

theorem frameClose_acts {s : State} (hs : s.receiver.state = .inFrame) : Acts c s (frameClose s) := by
  have hmoves : MovesWindows s (announceFrameEnd s) := movesWindows_announceFrameEnd s
  have hidle := idle_announceFrameEnd s
  rw [frameClose_eq]
  refine (acts_announceFrameEnd s).trans ?_
  generalize announceFrameEnd s = v at hmoves hidle ⊢
  rw [← hmoves.receiver] at hs ⊢
  refine acts_setReceiver (.leave (aborted := v.receiver.framesAborted) rfl (by decide) (.inl ⟨hs, hidle, rfl⟩) id
    (fun hlaw => ?_) (.inl rfl))
  exact iff_of_true (hlaw.locked (by rw [hs]; decide)) (by decide)

theorem ingressClose_acts {s u : State} (h : ingressClose s = some u) : Acts c s u := by
  cases hs : s.receiver.state <;> simp only [ingressClose, hs, Option.some.injEq, reduceCtorEq] at h <;> subst h
  case inFrame => exact frameClose_acts hs
  all_goals exact strayLine_acts ..

/-! ### Missed rows and failed lines (R25, R75) -/

theorem endTest_acts (r : Nat) (i : Fin 16) (s : State) : Acts c s (endTest r i s) := by
  unfold endTest
  split
  · split
    · exact (WindowAct.endWindow ..).acts
    · exact .refl
  · exact .refl

theorem missSlot_acts (r : Nat) (i : Fin 16) (s : State) : Acts c s (missSlot r i s) := by
  unfold missSlot
  split
  · refine .trans ?_ (endTest_acts ..)
    split
    · exact (WindowAct.mark i (fun x => { x with deficient := true }) s fun _ => rfl).acts
    · exact .refl
  · exact .refl

theorem missRow_acts (r : Nat) (s : State) : Acts c s (missRow r s) := by
  unfold missRow
  exact acts_forSlots (missSlot_acts r) s

theorem missRows_acts (first count : Nat) (s : State) : Acts c s (missRows first count s) := by
  unfold missRows
  generalize List.range' first count = l
  induction l generalizing s with
  | nil => exact .refl
  | cons r l ih => rw [List.foldl_cons]; exact (missRow_acts r s).trans (ih _)

theorem failedPixel_acts (row : BitVec 12) {s : State} (hs : s.receiver.state = .inFrame) :
    Acts c s (failedPixel row.toNat s) := by
  unfold failedPixel
  dsimp only
  split
  · refine (missRows_acts s.receiver.expectedRow (row.toNat + 1 - s.receiver.expectedRow) s).trans ?_
    have hmoves := movesWindows_missRows s.receiver.expectedRow (row.toNat + 1 - s.receiver.expectedRow) s
    generalize missRows _ _ s = v at hmoves ⊢
    have hrow := row.isLt
    exact acts_setReceiver (.progress (by rw [hmoves.receiver, hs]) (fun _ => by omega) id id)
  · exact .refl

theorem trailerFailure_acts {h : LineHeader} {s u : State} (hu : trailerFailure h s = some u) : Acts c s u := by
  unfold trailerFailure at hu
  split at hu
  · cases hu
  obtain rfl := Option.some.inj hu
  unfold failedLine
  refine (countedFault_acts 2 (kindByte h.kind) s).trans ?_
  dsimp only
  generalize countedFault 2 (kindByte h.kind) s = v
  split
  · split
    · exact (WindowAct.event ..).acts
    · exact .refl
  · split
    · rename_i hs
      exact failedPixel_acts h.row hs
    · exact .refl
  · exact .refl

/-! ### Frame start (R30, R31) -/

theorem movesWindows_countHoldOff (i : Fin 16) (s : State) : MovesWindows s (countHoldOff i s) :=
  movesWindows_setSlot ..

/-- The slots ask for openings inside the frame that has begun. -/
theorem openings_acts {s : State} (hs : s.receiver.state = .inFrame) :
    Acts c s (forSlots askOpening (forSlots countHoldOff s)) := by
  have hcount : Acts c s (forSlots countHoldOff s) := acts_forSlots (fun i v => (WindowAct.countHoldOff i v).acts) s
  have hmoves := movesWindows_forSlots movesWindows_countHoldOff s
  generalize forSlots countHoldOff s = v at hcount hmoves ⊢
  rw [← hmoves.receiver] at hs
  refine (forSlots_invariant (P := fun w => Acts c s w ∧ w.receiver.state = .inFrame) ?_ ⟨hcount, hs⟩).1
  rintro i w ⟨hw, hframe⟩
  exact ⟨hw.trans (WindowAct.askOpening i w hframe).acts, by rw [(movesWindows_askOpening i w).receiver, hframe]⟩

theorem switchBank_receiver (s : State) : (switchBank s).receiver = s.receiver := by
  cases hb : s.pendingBank with
  | none => rw [switchBank_none hb]
  | some b =>
    rw [switchBank_some hb, raiseEvent_eq, changeSlots_rest]

theorem startFrame_acts {depth : BitVec 2} {payload : List Byte} {s : State} {r : Receiver}
    (hc : c = .ingressOpen depth payload) (hr : r = s.receiver ∧ s.receiver.state ≠ .inFrame ∨ r = s.receiver.abort ∧ s.idle)
    (hlines : s.receiver.state ≠ .noSignal) :
    Acts c s (announceFrameStart (s.setReceiver (r.startFrame depth payload))) := by
  unfold announceFrameStart
  refine .trans (.single (.startFrame depth payload r s hc hr hlines)) (openings_acts ?_)
  rw [switchBank_receiver]
  rfl

theorem ingressOpen_acts {depth : BitVec 2} {payload : List Byte} {s u : State} (hc : c = .ingressOpen depth payload)
    (h : ingressOpen depth payload s = some u) : Acts c s u := by
  cases hs : s.receiver.state <;> simp only [ingressOpen, hs, Option.some.injEq, reduceCtorEq] at h <;> subst h
  case inFrame =>
    have hmoves := movesWindows_abortWindows .newOpen s
    have hidle := idle_abortWindows .newOpen s
    unfold startFrame
    rw [abortFrame_eq]
    refine (acts_abortWindows .newOpen s).trans ?_
    generalize abortWindows .newOpen s = v at hmoves hidle ⊢
    rw [← hmoves.receiver] at hs ⊢
    exact startFrame_acts hc (.inr ⟨rfl, hidle⟩) (by rw [hs]; decide)
  all_goals exact startFrame_acts hc (.inl ⟨rfl, by rw [hs]; decide⟩) (by rw [hs]; decide)

/-! ### Taking a command (R137 to R139) -/

theorem handOff_acts (s : State) : Acts c s (handOff s) := by
  cases hs : s.receiver.state <;> simp only [handOff, hs]
  case hunting =>
    exact acts_setReceiver (.leave (timer := s.receiver.silenceTimer) (aborted := s.receiver.framesAborted) rfl
      (by decide) (.inr ⟨by rw [hs]; decide, rfl⟩) id
      (fun hlaw => iff_of_true (hlaw.locked (by rw [hs]; decide)) (by decide)) (.inl rfl))
  case inFrame =>
    exact acts_setReceiver (.progress (row := s.receiver.expectedRow) (info := s.receiver.infoCount) hs id id
      fun _ => rfl)
  all_goals exact .refl

theorem handOff_lines {s : State} (hs : s.receiver.state ≠ .noSignal) : (handOff s).receiver.state ≠ .noSignal := by
  rw [handOff_eq]
  dsimp only
  split
  · decide
  · exact hs

/-- An owner's part of a command is a chain of acts that fills no response place. -/
def Serves (c : Instr) (owner : State → State × Reply) : Prop :=
  ∀ v : State, v.receiver.state ≠ .noSignal →
    (owner v).1.outstanding.length ≤ v.outstanding.length ∧ Acts c v (owner v).1

theorem takeCommand_acts {tag code : Byte} {action : Option (State → State × Reply)} {s u : State}
    (haction : ∀ owner, action = some owner → Serves c owner) (h : takeCommand tag code action s = some u) :
    Acts c s u := by
  unfold takeCommand at h
  split at h
  case isTrue => cases h
  case isFalse hs =>
    obtain rfl := Option.some.inj h
    have hlines := handOff_lines hs
    refine (handOff_acts s).trans ?_
    generalize handOff s = v at hlines ⊢
    split
    case isTrue => exact (WindowAct.event ..).acts
    case isFalse hroom =>
      simp only [State.responseQueueFull, decide_eq_true_eq, Nat.not_le] at hroom
      have hleft : (leaveSilent v).outstanding = v.outstanding := by rw [leaveSilent_eq]; rfl
      have hlines' : (leaveSilent v).receiver.state ≠ .noSignal := by rw [leaveSilent_eq]; exact hlines
      unfold carryOut
      refine .trans (.single (.leaveSilent v)) ?_
      dsimp only
      generalize leaveSilent v = w at hleft hlines' ⊢
      rw [← hleft] at hroom
      cases action with
      | none => exact .single (.respond _ w hroom)
      | some owner =>
        obtain ⟨hplaces, hacts⟩ := haction owner rfl w hlines'
        exact hacts.trans (.single (.respond _ _ (Nat.lt_of_le_of_lt hplaces hroom)))

theorem shortCommand_acts {s u : State} (h : shortCommand s = some u) : Acts c s u := by
  unfold shortCommand at h
  split at h
  · cases h
  obtain rfl := Option.some.inj h
  exact (handOff_acts s).trans (WindowAct.event ..).acts

/-! ### Owners (R153) -/

theorem serves_answer (r : Reply) : Serves c (answer r) := fun _ _ => ⟨le_rfl, .refl⟩

theorem serves_withArguments {α : Type} {checked : Except Byte α} {serve : α → State → State × Reply}
    (h : ∀ a, checked = .ok a → Serves c (serve a)) : Serves c (withArguments checked serve) := by
  intro v hv
  cases checked with
  | error field => exact serves_answer _ v hv
  | ok a => exact h a rfl v hv

/-- An owner whose part is one act that fills no response place. -/
theorem serves_of_act {owner : State → State × Reply} (hplaces : ∀ v, (owner v).1.outstanding = v.outstanding)
    (hact : ∀ v, Act c v (owner v).1) : Serves c owner :=
  fun v _ => ⟨by rw [hplaces], .single (hact v)⟩

theorem require_eq_ok {α : Type} {field : Byte} {o : Option α} {a : α} : require field o = .ok a ↔ o = some a := by
  cases o <;> simp [require]

/-- A field read in range, and what is read after it. -/
theorem require_bind_ok {α β : Type} {field : Byte} {o : Option α} {g : α → Except Byte β} {b : β} :
    (require field o >>= g) = .ok b ↔ ∃ a, o = some a ∧ g a = .ok b := by
  cases o <;> simp [require, bind, Except.bind]

theorem inRange_eq_some {low high n m : Nat} (h : inRange low high n = some m) : m = n ∧ low ≤ n ∧ n ≤ high := by
  unfold inRange at h
  split at h
  · rename_i hn
    exact ⟨(Option.some.inj h).symm, hn⟩
  · cases h

end Sys2Proof.Machine
end

section
/-! SUPPORT. What the acts of the window frames and of the transmitters leave alone: the settings of the ports and of the
notification unit, the response places, and every block but slots, ports, free list and the two queues. -/

namespace Sys2Proof.Machine

/-- The settings of a port, its pin, its open-stream set and its stall outstanding are the same. -/
structure Port.Agrees (q r : Port) : Prop where
  enable : q.enable = r.enable
  ceiling : q.ceiling = r.ceiling
  holdTimeout : q.holdTimeout = r.holdTimeout
  openSet : q.openSet = r.openSet
  ready : q.ready = r.ready
  stallOutstanding : q.stallOutstanding = r.stallOutstanding

theorem Port.Agrees.refl (q : Port) : q.Agrees q := ⟨rfl, rfl, rfl, rfl, rfl, rfl⟩

theorem Port.Agrees.trans {q r x : Port} (h : q.Agrees r) (h' : r.Agrees x) : q.Agrees x :=
  ⟨h.enable.trans h'.enable, h.ceiling.trans h'.ceiling, h.holdTimeout.trans h'.holdTimeout,
    h.openSet.trans h'.openSet, h.ready.trans h'.ready, h.stallOutstanding.trans h'.stallOutstanding⟩

/-- From s to u the acts of window frames and transmitters have been at work. -/
structure WindowKeeps (s u : State) : Prop where
  moves : MovesWindows s u
  port : ∀ p, (u.port p).Agrees (s.port p)
  outstanding : u.outstanding = s.outstanding
  silent : u.notify.silent = s.notify.silent
  retry : u.notify.retryInterval = s.notify.retryInterval ∧ u.notify.retryLimit = s.notify.retryLimit

theorem WindowKeeps.refl (s : State) : WindowKeeps s s :=
  ⟨.refl s, fun _ => .refl _, rfl, rfl, rfl, rfl⟩

theorem WindowKeeps.trans {s v u : State} (h : WindowKeeps s v) (h' : WindowKeeps v u) : WindowKeeps s u where
  moves := h'.moves.trans h.moves
  port p := (h'.port p).trans (h.port p)
  outstanding := h'.outstanding.trans h.outstanding
  silent := h'.silent.trans h.silent
  retry := ⟨h'.retry.1.trans h.retry.1, h'.retry.2.trans h.retry.2⟩

/-- The response places are held by the responses waiting and by the line in transmission on the management port. -/
theorem outstanding_congr {s u : State} (hmgmt : u.mgmt = s.mgmt) (hresponses : u.responses = s.responses)
    (hports : ∀ p, (u.port p).transmission = (s.port p).transmission) : u.outstanding = s.outstanding := by
  change responseInTransmission (u.port u.mgmt).transmission ++ u.responses =
    responseInTransmission (s.port s.mgmt).transmission ++ s.responses
  rw [hports, hmgmt, hresponses]

theorem windowKeeps_setSlot (i : Fin 16) (t : Slot) (s : State) : WindowKeeps s (s.setSlot i t) :=
  ⟨movesWindows_setSlot .., fun _ => .refl _, rfl, rfl, rfl, rfl⟩

theorem windowKeeps_setPort {p : Fin 4} {q : Port} {s : State} (hq : q.Agrees (s.port p))
    (hline : q.transmission = (s.port p).transmission) : WindowKeeps s (s.setPort p q) where
  moves := movesWindows_setPort ..
  port r := by
    rw [port_setPort]
    split
    · rename_i h; subst h; exact hq
    · exact .refl _
  outstanding := outstanding_congr rfl rfl fun r => by
    rw [port_setPort]
    split
    · rename_i h; subst h; exact hline
    · rfl
  silent := rfl
  retry := ⟨rfl, rfl⟩

theorem windowKeeps_raiseEvent (cls : EventClass) (sub : Subject) (hi lo : Byte) (s : State) :
    WindowKeeps s (raiseEvent cls sub hi lo s) := by
  have hmoves := movesWindows_raiseEvent cls sub hi lo s
  rw [raiseEvent_eq] at hmoves ⊢
  obtain ⟨-, -, -, hinterval, hlimit, hsilent⟩ := takeAll_kept s.notify [s.eventOf cls sub hi lo]
  exact ⟨hmoves, fun _ => .refl _, rfl, hsilent, hinterval, hlimit⟩

theorem windowKeeps_settle (s : State) : WindowKeeps s (settle s) where
  moves := movesWindows_settle s
  port p := by
    rw [(stepEnds_settle s).port p]
    obtain ⟨henable, hceiling, -, htimeout, -, hset, hstall, -, -, hready⟩ := portSending_kept s p
    exact ⟨henable, hceiling, htimeout, hset, hready, hstall⟩
  outstanding := (stepEnds_settle s).outstanding
  silent := by
    rw [(stepEnds_settle s).notify]
    split
    · rename_i o _; cases o <;> rfl
    · rfl
  retry := by
    rw [(stepEnds_settle s).notify]
    split
    · rename_i o _; cases o <;> exact ⟨rfl, rfl⟩
    · exact ⟨rfl, rfl⟩

theorem windowKeeps_enqueue (p : Fin 4) (r : Record) (s : State) : WindowKeeps s (enqueue p r s) :=
  windowKeeps_setPort ⟨rfl, rfl, rfl, rfl, rfl, rfl⟩ rfl

theorem windowKeeps_releaseReservation (p : Fin 4) (s : State) : WindowKeeps s (releaseReservation p s) :=
  windowKeeps_setPort ⟨rfl, rfl, rfl, rfl, rfl, rfl⟩ rfl

theorem windowKeeps_endWindow (code : CompletionCode) (i : Fin 16) (s : State) : WindowKeeps s (endWindow code i s) := by
  unfold endWindow
  split
  · exact (windowKeeps_enqueue ..).trans ((windowKeeps_releaseReservation ..).trans
      ((windowKeeps_raiseEvent ..).trans (windowKeeps_setSlot ..)))
  · exact .refl s

theorem windowKeeps_updateContext (i : Fin 16) (f : WindowContext → WindowContext) (s : State) :
    WindowKeeps s (updateContext i f s) := by
  unfold updateContext
  split
  · exact windowKeeps_setSlot ..
  · exact .refl s

/-- A claim that is granted moves the port's holding and the free list (R93, R100). -/
theorem claim_ok {p : Fin 4} {k : Nat} {s u : State} {ids : List Nat} (h : claim p k s = .ok (ids, u)) :
    ((s.port p).queued + (s.port p).reservations < 128 ∧
      (k = 0 ∨ (k ≤ s.freeList.length ∧ (s.port p).holding + k ≤ (s.port p).ceiling))) ∧ ids = s.freeList.take k ∧
    u = { s.setPort p { s.port p with holding := (s.port p).holding + k } with freeList := s.freeList.drop k } := by
  rw [claim_eq] at h
  split at h
  case isFalse => cases h
  case isTrue hplace =>
    split at h
    case isFalse => cases h
    case isTrue hgrant =>
      obtain ⟨rfl, rfl⟩ := Prod.mk.inj (Except.ok.inj h)
      exact ⟨⟨hplace, hgrant⟩, rfl, rfl⟩

theorem windowKeeps_claim {p : Fin 4} {k : Nat} {s u : State} {ids : List Nat} (h : claim p k s = .ok (ids, u)) :
    WindowKeeps s u := by
  obtain ⟨-, -, rfl⟩ := claim_ok h
  have hport := windowKeeps_setPort (s := s) (p := p) (q := { s.port p with holding := (s.port p).holding + k })
    ⟨rfl, rfl, rfl, rfl, rfl, rfl⟩ rfl
  exact ⟨⟨rfl, rfl⟩, hport.port, hport.outstanding, rfl, rfl, rfl⟩

theorem windowKeeps_askOpening (i : Fin 16) (s : State) : WindowKeeps s (askOpening i s) := by
  unfold askOpening
  dsimp only
  split
  · split
    · exact (windowKeeps_setSlot ..).trans (windowKeeps_raiseEvent ..)
    · split
      · unfold grantOpening
        refine .trans ?_ (windowKeeps_setSlot ..)
        exact windowKeeps_setPort ⟨rfl, rfl, rfl, rfl, rfl, rfl⟩ rfl
      · exact (windowKeeps_setSlot ..).trans (windowKeeps_raiseEvent ..)
  · exact .refl s

theorem WindowAct.keeps {s u : State} (h : WindowAct s u) : WindowKeeps s u := by
  cases h with
  | event cls sub hi lo => exact windowKeeps_raiseEvent ..
  | settle => exact windowKeeps_settle s
  | endWindow code i => exact windowKeeps_endWindow ..
  | mark i f => exact windowKeeps_updateContext ..
  | countDrop p => exact windowKeeps_setPort ⟨rfl, rfl, rfl, rfl, rfl, rfl⟩ rfl
  | store i c k ids r _ _ _ hclaim => exact (windowKeeps_claim hclaim).trans (windowKeeps_enqueue ..)
  | countHoldOff i => exact windowKeeps_setSlot ..
  | askOpening i => exact windowKeeps_askOpening ..
  | rearm i count => exact windowKeeps_setSlot ..

/-- Acts of the window frames and of the transmitters, one after the other. -/
abbrev WindowActs : State → State → Prop := Relation.ReflTransGen WindowAct

theorem WindowActs.keeps {s u : State} (h : WindowActs s u) : WindowKeeps s u := by
  induction h with
  | refl => exact .refl s
  | tail _ hlast ih => exact ih.trans hlast.keeps

theorem WindowActs.acts {c : Instr} {s u : State} (h : WindowActs s u) : Acts c s u :=
  h.lift id fun _ _ => .window

theorem windowActs_forSlots {f : Fin 16 → State → State} (h : ∀ i v, WindowActs v (f i v)) (s : State) :
    WindowActs s (forSlots f s) :=
  forSlots_invariant (P := WindowActs s) (fun i v hv => hv.trans (h i v)) .refl

end Sys2Proof.Machine
end

section
/-! SUPPORT. The owners' parts of the commands, the rows, and with them every command as a chain of acts. -/

namespace Sys2Proof.Machine

/-! ### The queue of the notification unit (R156) -/

/-- The sequence numbers alone make a queue consecutive. -/
theorem consecutive_map {f : SentEntry → SentEntry} (hf : ∀ e, (f e).sequence = e.sequence) (next : Byte)
    (l : List SentEntry) : consecutive next (l.map f) = consecutive next l := by
  induction l with
  | nil => rfl
  | cons e l ih => simp only [List.map_cons, consecutive, hf, List.length_map, ih]

theorem consecutive_suffix {next : Byte} {l rest : List SentEntry} (h : consecutive next l = true) (hl : rest <:+ l) :
    consecutive next rest = true := by
  induction l with
  | nil => rwa [List.suffix_nil.mp hl]
  | cons e l ih =>
    rcases List.suffix_cons_iff.mp hl with rfl | hl
    · exact h
    · simp only [consecutive, Bool.and_eq_true] at h
      exact ih h.2 hl

theorem dropThrough_suffix {seq : Byte} {l rest : List SentEntry} (h : dropThrough seq l = some rest) : rest <:+ l := by
  induction l with
  | nil => cases h
  | cons e l ih =>
    unfold dropThrough at h
    split at h
    · rw [← Option.some.inj h]; exact List.suffix_cons ..
    · exact (ih h).trans (List.suffix_cons ..)

/-- In a consecutive queue each entry's number lies its place below the next sequence number. -/
theorem consecutive_mem {next : Byte} {l : List SentEntry} (h : consecutive next l = true) {e : SentEntry} (he : e ∈ l) :
    ∃ k, 1 ≤ k ∧ k ≤ l.length ∧ e.sequence + BitVec.ofNat 8 k = next := by
  induction l with
  | nil => cases he
  | cons x l ih =>
    simp only [consecutive, Bool.and_eq_true, beq_iff_eq] at h
    rcases List.mem_cons.mp he with rfl | he
    · exact ⟨l.length + 1, by omega, by simp, h.1⟩
    · obtain ⟨k, hlow, hhigh, hk⟩ := ih h.2 he
      exact ⟨k, hlow, by simp only [List.length_cons]; omega, hk⟩

/-- A consecutive queue of at most 255 entries holds each sequence number once. -/
theorem consecutive_pairwise {next : Byte} {l : List SentEntry} (h : consecutive next l = true) (hl : l.length ≤ 255) :
    l.Pairwise fun x y => x.sequence ≠ y.sequence := by
  induction l with
  | nil => exact .nil
  | cons x l ih =>
    simp only [consecutive, Bool.and_eq_true, beq_iff_eq] at h
    simp only [List.length_cons] at hl
    refine .cons (fun y hy heq => ?_) (ih h.2 (by omega))
    obtain ⟨k, hlow, hhigh, hk⟩ := consecutive_mem h.2 hy
    have hsame : BitVec.ofNat 8 k = BitVec.ofNat 8 (l.length + 1) :=
      (BitVec.add_right_inj x.sequence).mp ((heq ▸ hk).trans h.1.symm)
    have hval := congrArg BitVec.toNat hsame
    simp only [BitVec.toNat_ofNat] at hval
    omega

/-- In a lawful queue the entries with one sequence number are one. -/
theorem NotifyUnit.Law.unique {n : NotifyUnit} (h : n.Law) {x y : SentEntry} (hx : x ∈ n.sent) (hy : y ∈ n.sent)
    (hseq : x.sequence = y.sequence) : x = y := by
  obtain ⟨-, hlen, hcons, -⟩ := h
  by_contra hne
  have : Std.Symm fun x y : SentEntry => x.sequence ≠ y.sequence := ⟨fun _ _ => Ne.symm⟩
  exact (consecutive_pairwise hcons (by omega)).forall hx hy hne hseq

variable {c : Instr}

/-- The unacknowledged entries rewritten, their sequence numbers and the rest of the unit as they were. -/
theorem NotifyMove.mapSent {n : NotifyUnit} {f : SentEntry → SentEntry} (hseq : ∀ e, (f e).sequence = e.sequence)
    (hretry : n.Law → ∀ e ∈ n.sent, (f e).retryCount ≤ 15)
    (htimer : n.silent = true → ∀ e, e.retryTimer = .stopped → (f e).retryTimer = .stopped) :
    NotifyMove c n { n with sent := n.sent.map f } where
  lawful := fun hlaw => by
    obtain ⟨hocc, hlen, hcons, hkeys, hlost, hrepeat, -, htimers, hinterval, hlimit, hset⟩ := id hlaw
    refine ⟨by simpa [NotifyUnit.occupancy] using hocc, by simpa using hlen, ?_, hkeys, hlost, hrepeat, ?_, ?_, hinterval,
      hlimit, hset⟩
    · simpa only [consecutive_map hseq] using hcons
    · simp only [List.forall_mem_map]
      exact hretry hlaw
    · simp only [List.forall_mem_map]
      exact fun hs e he => htimer hs e (htimers hs e he)
  silent := rfl
  settings := .inl rfl
  retry := .inl ⟨rfl, rfl⟩

/-- Older entries removed (R166). -/
theorem NotifyMove.drop {n : NotifyUnit} {rest : List SentEntry} (h : rest <:+ n.sent) :
    NotifyMove c n { n with sent := rest } where
  lawful := by
    rintro ⟨hocc, hlen, hcons, hkeys, hlost, hrepeat, hcount, htimers, hinterval, hlimit, hset⟩
    have hle := h.length_le
    refine ⟨?_, hle.trans hlen, consecutive_suffix hcons h, hkeys, hlost, hrepeat, fun e he => hcount e (h.mem he),
      fun hs e he => htimers hs e (h.mem he), hinterval, hlimit, hset⟩
    unfold NotifyUnit.occupancy at hocc ⊢
    dsimp only
    omega
  silent := rfl
  settings := .inl rfl
  retry := .inl ⟨rfl, rfl⟩

/-- SET_EVENT's settings, RESTARTED staying enabled (R155). -/
theorem NotifyMove.setEvent {n : NotifyUnit} {a : EventSettings} (ha : a.cls = .restarted → a.enable = true)
    (hc : ∃ tag args, c = .setEvent tag args) : NotifyMove c n (n.applySettings a) where
  lawful := by
    rintro ⟨hocc, hlen, hcons, hkeys, hlost, hrepeat, hcount, htimers, hinterval, hlimit, hset⟩
    refine ⟨by simpa [NotifyUnit.occupancy, NotifyUnit.applySettings] using hocc, hlen, hcons, ?_, hlost, ?_, hcount,
      htimers, hinterval, hlimit, ?_⟩
    · simp only [NotifyUnit.applySettings, List.pairwise_map]
      refine hkeys.imp fun {x y} hxy => ?_
      simp only [PendingEntry.sameKey] at hxy ⊢
      split <;> split <;> exact hxy
    · simp only [NotifyUnit.applySettings, List.forall_mem_map]
      intro e he
      split <;> exact hrepeat e he
    · unfold NotifyUnit.setting NotifyUnit.applySettings at *
      simp only [Fin.getElem_fin, Vector.getElem_set]
      split
      · rename_i hi
        exact ha (by cases hcls : a.cls <;> simp_all [EventClass.index])
      · exact hset
  silent := rfl
  settings := .inr hc
  retry := .inl ⟨rfl, rfl⟩

/-- The expiry of a retry timer (R162, R163). -/
theorem retryExpiry_acts {seq : Byte} {s u : State} (h : retryExpiry seq s = some u) : Acts c s u := by
  unfold retryExpiry at h
  split at h
  · cases h
  rename_i e hfind
  obtain rfl := Option.some.inj h
  split
  case isFalse => exact .single (.enterSilent s)
  case isTrue hlimit =>
    refine .single (.notify _ s (.mapSent (fun x => ?_) (fun hlaw x hx => ?_) fun _ x hx => ?_))
    · split <;> rfl
    · have hcounts : ∀ x ∈ s.notify.sent, x.retryCount ≤ 15 := hlaw.2.2.2.2.2.2.1
      have hlimits : s.notify.retryLimit ≤ 15 := hlaw.2.2.2.2.2.2.2.2.2.1.2
      have hfound := List.find?_some hfind
      simp only [Bool.and_eq_true, beq_iff_eq] at hfound
      split
      case isTrue hseq =>
        obtain rfl := hlaw.unique hx (List.mem_of_find?_eq_some hfind) (hseq.trans hfound.1.symm)
        exact (Nat.succ_le_of_lt hlimit).trans hlimits
      case isFalse => exact hcounts x hx
    · split
      · rfl
      · exact hx

/-! ### Owners (R153) -/

section
variable {tag : Byte} {args : List Byte} {owner : State → State × Reply}

theorem serves_setIngressAction (h : setIngressAction args = some owner) : Serves (.setIngress tag args) owner := by
  unfold setIngressAction at h
  split at h
  case h_2 => cases h
  obtain rfl := Option.some.inj h
  refine serves_withArguments fun timeout hok v _ => ⟨le_rfl, acts_setReceiver ?_⟩
  obtain ⟨rfl, hrange⟩ := inRange_eq_some (require_eq_ok.mp hok)
  refine ⟨fun ⟨hrow, hinfo, hout, hrun, hlock⟩ => ⟨hrow, hinfo, hrange, Iff.trans ?_ hrun, hlock⟩, id, .inl, ⟨rfl, rfl⟩,
    .inr ⟨_, _, rfl⟩, .inl rfl⟩
  dsimp only
  split
  case isTrue hr => exact iff_of_true rfl hr
  case isFalse hr => exact iff_of_false Bool.false_ne_true hr

theorem serves_setEventAction (h : setEventAction args = some owner) : Serves (.setEvent tag args) owner := by
  unfold setEventAction at h
  split at h
  case h_2 => cases h
  obtain rfl := Option.some.inj h
  refine serves_withArguments fun a hok => serves_of_act (fun _ => rfl) fun v =>
    .notify _ v (.setEvent (fun hcls => ?_) ⟨_, _, rfl⟩)
  obtain ⟨cls, -, enable, -, priority, -, hrest⟩ : ∃ cls, _ ∧ ∃ enable, _ ∧ ∃ priority, _ ∧ _ := by
    simpa only [checkEvent, require_bind_ok] using hok
  split at hrest
  · cases hrest
  · rename_i hrefused
    obtain rfl := Except.ok.inj hrest
    simpa [show cls = _ from hcls] using hrefused

theorem serves_setNotifyAction (h : setNotifyAction args = some owner) : Serves (.setNotify tag args) owner := by
  unfold setNotifyAction at h
  split at h
  case h_2 => cases h
  obtain rfl := Option.some.inj h
  refine serves_withArguments fun a hok => serves_of_act (fun _ => rfl) fun v => .notify _ v ?_
  obtain ⟨interval, hinterval, limit, hlimit, hrest⟩ : ∃ interval, _ ∧ ∃ limit, _ ∧ _ := by
    simpa only [checkNotify, require_bind_ok] using hok
  obtain rfl := Except.ok.inj hrest
  obtain ⟨rfl, hlow⟩ := inRange_eq_some hinterval
  obtain ⟨rfl, hlow'⟩ := inRange_eq_some hlimit
  refine ⟨?_, rfl, .inl rfl, .inr ⟨_, _, rfl⟩⟩
  rintro ⟨hocc, hlen, hcons, hkeys, hlost, hrepeat, hcount, htimers, -, -, hset⟩
  exact ⟨hocc, hlen, hcons, hkeys, hlost, hrepeat, hcount, htimers, hlow, hlow', hset⟩

theorem serves_ackAction (h : ackAction args = some owner) : Serves c owner := by
  unfold ackAction at h
  split at h
  case h_2 => cases h
  obtain rfl := Option.some.inj h
  intro v hv
  unfold acknowledge
  split
  case h_1 rest hrest => exact ⟨le_rfl, .single (.notify _ v (.drop (dropThrough_suffix hrest)))⟩
  case h_2 => exact serves_answer _ v hv

/-! ### Trigger lines (R128 to R132) -/

theorem addEdge_length {d : ChangeDirection} {edges : List ChangeDirection} (h : edges.length ≤ 2) :
    (addEdge d edges).length ≤ 2 := by
  unfold addEdge
  split
  · rw [List.length_append, List.length_singleton]; omega
  · exact h

/-- An accepted change leaves a lawful line: the filtered level is the pin's and no interval runs. -/
theorem TriggerLine.lawful_accept {l : TriggerLine} (hedges : l.edges.length ≤ 2) : l.accept.Lawful := by
  refine ⟨?_, fun _ => ?_, fun _ => rfl⟩
  · unfold TriggerLine.accept
    dsimp only
    split
    · exact addEdge_length hedges
    · exact hedges
  · simp [TriggerLine.accept, Timer.isRunning]

/-- A filter interval started on a line in INPUT mode whose pin has departed from the filtered level. -/
theorem TriggerLine.lawful_running {l : TriggerLine} {time : Nat} (hedges : l.edges.length ≤ 2) (hmode : l.mode = .input)
    (hpin : l.pin ≠ l.filteredLevel) : ({ l with filterInterval := .running time } : TriggerLine).Lawful :=
  ⟨hedges, fun _ => iff_of_true rfl hpin, fun h => absurd hmode h⟩

theorem TriggerLine.lawful_filterPin {l : TriggerLine} (hedges : l.edges.length ≤ 2) (hmode : l.mode = .input) :
    l.filterPin.Lawful := by
  unfold TriggerLine.filterPin
  split
  case isTrue hpin => exact ⟨hedges, fun _ => by simp [Timer.isRunning, hpin], fun _ => rfl⟩
  case isFalse hpin =>
    split
    · exact lawful_accept hedges
    · exact lawful_running hedges hmode hpin

theorem TriggerLine.lawful_changePin {l : TriggerLine} (h : l.Lawful) : l.changePin.Lawful := by
  obtain ⟨hedges, -, hout⟩ := h
  unfold TriggerLine.changePin
  dsimp only
  split
  case isTrue hmode => exact lawful_filterPin hedges hmode
  case isFalse hmode => exact ⟨hedges, fun h => absurd h hmode, fun _ => hout hmode⟩

theorem TriggerLine.lawful_refilter {l : TriggerLine} (h : l.Lawful) (hmode : l.mode = .input) : l.refilter.Lawful := by
  obtain ⟨hedges, hin, hout⟩ := id h
  unfold TriggerLine.refilter
  split
  case isTrue hrun =>
    split
    · exact lawful_accept hedges
    · exact lawful_running hedges hmode ((hin hmode).mp hrun)
  case isFalse => exact h

/-- The line after SET_LINE is lawful, whatever its old and new modes (R131). -/
theorem TriggerLine.lawful_applySettings {l : TriggerLine} (h : l.Lawful) (a : LineSettings) :
    (l.applySettings a).Lawful := by
  obtain ⟨hedges, hin, hout⟩ := id h
  unfold TriggerLine.applySettings
  dsimp only
  split
  case h_1 hold hnew =>
    have hstored : (l.store a).Lawful := ⟨hedges, fun _ => hin hold, fun hmode => absurd hnew hmode⟩
    split
    · exact hstored
    · exact lawful_refilter hstored hnew
  case h_2 hold hnew => exact ⟨hedges, fun hmode => absurd hmode hnew, fun _ => rfl⟩
  case h_3 => exact ⟨hedges, fun _ => by simp [TriggerLine.store, Timer.isRunning], fun _ => rfl⟩
  case h_4 hold hnew _ =>
    exact ⟨hedges, fun hmode => absurd hmode hnew, fun _ => hout hold⟩

theorem accept_settings (l : TriggerLine) :
    l.accept.mode = l.mode ∧ l.accept.edge = l.edge ∧ l.accept.filter = l.filter ∧ l.accept.latch = l.latch ∧
    l.accept.boundSlot = l.boundSlot := ⟨rfl, rfl, rfl, rfl, rfl⟩

theorem changePin_settings (l : TriggerLine) :
    l.changePin.mode = l.mode ∧ l.changePin.edge = l.edge ∧ l.changePin.filter = l.filter ∧
    l.changePin.latch = l.latch ∧ l.changePin.boundSlot = l.boundSlot := by
  unfold TriggerLine.changePin TriggerLine.filterPin
  dsimp only
  split
  · split
    · exact ⟨rfl, rfl, rfl, rfl, rfl⟩
    · split <;> exact ⟨rfl, rfl, rfl, rfl, rfl⟩
  · exact ⟨rfl, rfl, rfl, rfl, rfl⟩

theorem pinChange_acts {n : Fin 4} {s u : State} (h : pinChange n s = some u) : Acts c s u := by
  obtain rfl := Option.some.inj h
  exact .single (.line n _ s ⟨TriggerLine.lawful_changePin, .inl (changePin_settings _)⟩)

theorem filterExpiry_acts {n : Fin 4} {s u : State} (h : filterExpiry n s = some u) : Acts c s u := by
  unfold filterExpiry at h
  split at h
  case isFalse => cases h
  case isTrue =>
    obtain rfl := Option.some.inj h
    exact .single (.line n _ s ⟨fun hlaw => TriggerLine.lawful_accept hlaw.1, .inl (accept_settings _)⟩)

theorem serves_setLineAction (h : setLineAction args = some owner) : Serves (.setLine tag args) owner := by
  unfold setLineAction at h
  split at h
  case h_2 => cases h
  obtain rfl := Option.some.inj h
  exact serves_withArguments fun a _ => serves_of_act (fun _ => rfl) fun v =>
    .line _ _ v ⟨fun hlaw => TriggerLine.lawful_applySettings hlaw a, .inr ⟨_, _, rfl⟩⟩

/-! ### Arming (R81 to R84) -/

theorem armSlot_acts (mask : Half) (count : Nat) (i : Fin 16) (s : State) :
    WindowActs s (armSlot mask count i s) := by
  unfold armSlot addArm
  split
  · rw [settleUnlessActive_armCount]
    exact .single (.rearm i _ s fun _ => Nat.min_le_right ..)
  · exact .refl

theorem disarmSlot_acts (mask : Half) (cut : Bool) (i : Fin 16) (s : State) :
    WindowActs s (disarmSlot mask cut i s) := by
  rw [disarmSlot_eq, endWindowIf]
  have hclear : WindowActs s (s.changeSlot (disarmedBy mask) i) := by
    unfold State.changeSlot disarmedBy
    split
    · exact .single (.rearm i 0 s fun _ => Nat.zero_le _)
    · rw [setSlot_self]
  refine hclear.trans ?_
  generalize s.changeSlot (disarmedBy mask) i = v
  split
  · exact .single (.endWindow ..)
  · exact .refl

theorem takeEdge_acts {i : Fin 16} {s : State} (hcount : (s.slot i).armCount ≠ 15) : Acts c s (takeEdge i s) := by
  unfold takeEdge
  dsimp only
  rw [settleUnlessActive_armCount]
  have hkept : ((endWindow .cut i s).slot i).armCount = (s.slot i).armCount := by
    rw [endWindow_slot_ended, Slot.ended]
    split <;> rfl
  split
  · exact (WindowAct.endWindow .cut i s).acts.trans (WindowAct.rearm i _ _ fun _ => by omega).acts
  · exact (WindowAct.rearm i _ s fun _ => by omega).acts

theorem edgeSlot_acts (n : Fin 4) (i : Fin 16) (s : State) : Acts c s (edgeSlot n i s) := by
  unfold edgeSlot
  split
  · split
    · exact (WindowAct.event ..).acts
    · split
      · exact (WindowAct.event ..).acts
      · rename_i hcount; exact takeEdge_acts hcount
  · exact .refl

theorem triggerEdge_acts {n : Fin 4} {s u : State} (h : triggerEdge n s = some u) : Acts c s u := by
  cases hedges : (s.line n).edges with
  | nil => simp [triggerEdge, hedges] at h
  | cons d rest =>
    rw [triggerEdge_of_edges hedges] at h
    obtain rfl := Option.some.inj h
    have htaken : Acts c s (s.setLine n { s.line n with edges := rest }) := by
      refine .single (.line n _ s ⟨fun ⟨htwo, hin, hout⟩ => ⟨?_, hin, hout⟩, .inl ⟨rfl, rfl, rfl, rfl, rfl⟩⟩)
      rw [hedges, List.length_cons] at htwo
      dsimp only
      omega
    exact htaken.trans (acts_forSlots (edgeSlot_acts n) _)

theorem serves_windowActs {owner : State → State × Reply} (h : ∀ v, WindowActs v (owner v).1) : Serves c owner :=
  fun v _ => ⟨(congrArg List.length (h v).keeps.outstanding).le, (h v).acts⟩

theorem armSlots_acts (mask : Half) (count : Nat) (s : State) : WindowActs s (armSlots mask count s).1 := by
  unfold armSlots
  split
  · exact .refl
  · exact windowActs_forSlots (armSlot_acts mask count) s

theorem serves_armAction (h : armAction args = some owner) : Serves c owner := by
  unfold armAction at h
  split at h
  case h_2 => cases h
  obtain rfl := Option.some.inj h
  exact serves_withArguments fun count _ => serves_windowActs (armSlots_acts _ count)

theorem serves_disarmAction (h : disarmAction args = some owner) : Serves c owner := by
  unfold disarmAction at h
  split at h
  case h_2 => cases h
  obtain rfl := Option.some.inj h
  exact serves_withArguments fun cut _ => serves_windowActs fun v => windowActs_forSlots (disarmSlot_acts _ cut) v

/-! ### The window table, the ports and the counters (R45, R119, R148) -/

/-- A record in range is a legal entry (R43, R49). -/
theorem legal_of_entryOfRecord {r : RawRecord} {e : Entry} (h : entryOfRecord r = .ok e) : e.Legal := by
  obtain ⟨height, hheight, width, hwidth, port, -, row, -, column, -, trigger, -, top, htop, left, hleft, hrest⟩ :
      ∃ height, _ ∧ ∃ width, _ ∧ ∃ port, _ ∧ ∃ row, _ ∧ ∃ column, _ ∧ ∃ trigger, _ ∧ ∃ top, _ ∧ ∃ left, _ ∧ _ := by
    simpa only [entryOfRecord, require_bind_ok] using h
  obtain rfl := Except.ok.inj hrest
  obtain ⟨rfl, hpositive, hmost⟩ := inRange_eq_some hheight
  obtain ⟨rfl, hpositive', hmost'⟩ := inRange_eq_some hwidth
  obtain ⟨rfl, -, htop⟩ := inRange_eq_some htop
  obtain ⟨rfl, -, hleft⟩ := inRange_eq_some hleft
  have hhold := (r.trigger.extractLsb' 0 4).isLt
  exact ⟨⟨hpositive, by dsimp only; omega⟩, ⟨hpositive', by dsimp only; omega⟩, by dsimp only; omega⟩

/-- WRITE_ENTRY fills no response place. -/
theorem writeEntry_outstanding (b : Fin 4) (i : Fin 16) (e : Entry) (s : State) :
    (writeEntry b i e s).1.outstanding = s.outstanding := by
  unfold writeEntry writeActive
  split
  · split
    · rfl
    · split <;> rfl
  · split <;> rfl

theorem serves_writeEntryAction (h : writeEntryAction args = some owner) : Serves (.writeEntry tag args) owner := by
  unfold writeEntryAction at h
  split at h
  case h_2 => cases h
  obtain ⟨r, -, rfl⟩ := Option.map_eq_some_iff.mp h
  refine serves_withArguments fun a hok => serves_of_act (writeEntry_outstanding _ _ _) fun v =>
    .writeEntry _ _ _ v ⟨_, _, rfl⟩ ?_
  obtain ⟨bank, -, index, -, hrest⟩ : ∃ bank, _ ∧ ∃ index, _ ∧ _ := by
    simpa only [checkWrite, require_bind_ok] using hok
  cases hentry : entryOfRecord r with
  | error field => rw [hentry] at hrest; cases hrest
  | ok e =>
    rw [hentry] at hrest
    obtain rfl := Except.ok.inj hrest
    exact legal_of_entryOfRecord hentry

theorem selectBank_outstanding (b : Fin 4) (s : State) : (selectBank b s).1.outstanding = s.outstanding := by
  unfold selectBank
  split
  · split <;> rfl
  · split
    · rfl
    · split <;> rfl

theorem serves_selectBankAction (h : selectBankAction args = some owner) : Serves c owner := by
  unfold selectBankAction at h
  split at h
  case h_2 => cases h
  obtain rfl := Option.some.inj h
  exact serves_withArguments fun b _ => serves_of_act (selectBank_outstanding b) fun v => .selectBank b v

theorem setPort_outstanding (a : PortSettings) (s : State) : (setPort a s).1.outstanding = s.outstanding := by
  unfold setPort
  split
  · rfl
  · split
    · rfl
    · refine outstanding_congr rfl rfl fun p => ?_
      rw [port_setPort]
      split
      · rename_i h; subst h; rfl
      · rfl

theorem serves_setPortAction (h : setPortAction args = some owner) : Serves (.setPort tag args) owner := by
  unfold setPortAction at h
  split at h
  case h_2 => cases h
  obtain rfl := Option.some.inj h
  refine serves_withArguments fun a hok => serves_of_act (setPort_outstanding a) fun v => ?_
  obtain ⟨port, -, enable, -, ceiling, hceiling, timeout, htimeout, hrest⟩ :
      ∃ port, _ ∧ ∃ enable, _ ∧ ∃ ceiling, _ ∧ ∃ timeout, _ ∧ _ := by
    simpa only [checkPort, require_bind_ok] using hok
  obtain rfl := Except.ok.inj hrest
  obtain ⟨rfl, -, hceiling⟩ := inRange_eq_some hceiling
  obtain ⟨rfl, -, htimeout⟩ := inRange_eq_some htimeout
  exact .setPort _ v ⟨_, _, rfl⟩ hceiling htimeout

theorem serves_clearCountersAction (h : clearCountersAction args = some owner) : Serves c owner := by
  unfold clearCountersAction at h
  split at h
  case h_2 => cases h
  obtain rfl := Option.some.inj h
  refine fun v _ => ⟨(congrArg List.length (?_ : (clearCounters v).1.outstanding = v.outstanding)).le, ?_⟩
  · obtain ⟨slots, ports, hrest⟩ := clearCounters_rest v
    refine outstanding_congr (by rw [hrest]) (by rw [hrest]) fun p => ?_
    rw [clearCounters_port]
    rfl
  · have hreceiver : Acts c v (v.setReceiver v.receiver.clear) :=
      acts_setReceiver ⟨id, fun _ => ⟨Nat.zero_le _, Nat.zero_le _, Nat.zero_le _, Nat.zero_le _⟩, .inl, ⟨rfl, rfl⟩,
        .inl rfl, .inl rfl⟩
    have hslots := hreceiver.trans (acts_forSlots (fun i w => .single (.clearSlot i w)) _)
    have hports := hslots.trans (acts_forPorts (fun p w => .single (.clearPort p w)) _)
    unfold clearCounters
    dsimp only
    generalize forPorts clearPort (forSlots clearSlot (v.setReceiver v.receiver.clear)) = w at hports ⊢
    refine hports.trans (.single (.notify _ w ⟨?_, rfl, .inl rfl, .inl ⟨rfl, rfl⟩⟩))
    rintro ⟨hocc, hlen, hcons, hkeys, -, hrest⟩
    exact ⟨hocc, hlen, hcons, hkeys, Nat.zero_le _, hrest⟩

/-! ### Reading, ECHO and RESTART (R51, R145, R146, R150) -/

theorem serves_echoAction (h : echoAction args = some owner) : Serves c owner := by
  unfold echoAction at h
  split at h
  · obtain rfl := Option.some.inj h
    exact serves_answer _
  · cases h

theorem serves_readEntryAction (h : readEntryAction args = some owner) : Serves c owner := by
  unfold readEntryAction at h
  split at h
  case h_2 => cases h
  obtain rfl := Option.some.inj h
  exact serves_withArguments fun a _ => serves_windowActs fun _ => .refl

theorem readStatus_state (wasSilent : Bool) (which : Byte) (s : State) : (readStatus wasSilent which s).1 = s := by
  unfold readStatus
  split <;> rfl

theorem serves_readStatusAction {wasSilent : Bool} (h : readStatusAction wasSilent args = some owner) :
    Serves c owner := by
  unfold readStatusAction at h
  split at h
  case h_2 => cases h
  obtain rfl := Option.some.inj h
  exact serves_windowActs fun v => by rw [readStatus_state]

/-- RESTART empties the response queue; a response in transmission goes on (R150). -/
theorem restartPart_outstanding (s : State) :
    (restartPart s).1.outstanding = responseInTransmission (s.port s.mgmt).transmission := by
  obtain ⟨order, slots, ports, -, hrest⟩ := restartPart_rest s
  change responseInTransmission ((restartPart s).1.port (restartPart s).1.mgmt).transmission ++
    (restartPart s).1.responses = _
  rw [restartPart_port, hrest]
  exact List.append_nil _

theorem serves_restartPart : Serves c restartPart := by
  refine fun v hv => ⟨?_, .single (.restart v hv)⟩
  rw [restartPart_outstanding]
  exact (List.sublist_append_left ..).length_le

theorem serves_restartAction (h : restartAction args = some owner) : Serves c owner := by
  unfold restartAction at h
  split at h
  case h_2 => cases h
  obtain rfl := Option.some.inj h
  exact serves_restartPart

end

/-! ### Rows (R32 to R35, R74, R89 to R98) -/

/-- What comes about before a slot's turn in the row of the command. -/
theorem meanwhile_acts {e : RowEvent} (hcauses : c = commandOfEvent e ∨ holdsEvent c e) (s : State) :
    Acts c s (meanwhile e s) := by
  unfold meanwhile
  cases heffect : eventEffect e s with
  | none => exact .refl
  | some u =>
    refine .trans ?_ (WindowAct.settle u).acts
    by_cases hrestart : ∃ tag, e = .restart tag
    · obtain ⟨tag, rfl⟩ := hrestart
      exact takeCommand_acts (fun owner h => serves_restartAction h) heffect
    · exact .single (.event e s u hcauses (fun tag h => hrestart ⟨tag, h⟩) heffect)

theorem forTurns_acts {during : List (Fin 16 × RowEvent)} (hduring : ∀ i e, (i, e) ∈ during → holdsEvent c e)
    {turn : Fin 16 → State → State} (hturn : ∀ i v, WindowActs v (turn i v)) (s : State) :
    Acts c s (forTurns during turn s) :=
  forTurns_invariant (P := Acts c s) during (fun i v hv => hv.trans (hturn i v).acts)
    (fun v hv => hv.trans (WindowAct.settle v).acts)
    (fun e v ⟨i, he⟩ hv => hv.trans (meanwhile_acts (.inr (hduring i e he)) v)) .refl

theorem endTest_windowActs (r : Nat) (i : Fin 16) (s : State) : WindowActs s (endTest r i s) := by
  unfold endTest
  split
  · split
    · exact .single (.endWindow ..)
    · exact .refl
  · exact .refl

theorem dropRow_acts (cause : Byte) (i : Fin 16) (p : Fin 4) (s : State) : WindowActs s (dropRow cause i p s) := by
  unfold dropRow
  have hmark : WindowActs s (updateContext i (fun c => { c with deficient := true }) s) :=
    .single (.mark i (fun c => { c with deficient := true }) s fun _ => rfl)
  exact (hmark.tail (.event ..)).tail (.countDrop ..)

/-- A segment cut for an ACTIVE slot: its marks, its record and its blocks, or its drop. -/
theorem cutSegment_acts (depth : BitVec 2) (r : Nat) (samples : List Half) {i : Fin 16} {x : WindowContext} {s : State}
    (hx : (s.slot i).state = .active x) : WindowActs s (cutSegment depth r samples i x s) := by
  have hclip : WindowActs s (if (x.segment samples).length < x.outputWidth then
      updateContext i (fun c => { c with clipped := true }) s else s) := by
    split
    · exact .single (.mark i (fun c => { c with clipped := true }) s fun _ => rfl)
    · exact .refl
  have hcontext : ((if (x.segment samples).length < x.outputWidth then
      updateContext i (fun c => { c with clipped := true }) s else s).slot i).context =
      some (x.markedBy (x.segment samples)) := by
    rw [markClipped hx, slot_setSlot, if_pos rfl]
    rfl
  unfold cutSegment
  dsimp only
  generalize (if (x.segment samples).length < x.outputWidth then
    updateContext i (fun c => { c with clipped := true }) s else s) = v at hclip hcontext ⊢
  split
  · exact hclip.trans (dropRow_acts ..)
  · rename_i ids u hclaim
    have hstore : WindowAct v (enqueue x.port (x.pixelRecord depth r (x.segment samples) ids) u) :=
      .store i (x.markedBy (x.segment samples)) _ ids _ v u hcontext hclaim (fillBlocks_ids ..)
    exact (hclip.tail hstore).tail (.mark i (fun c => { c with rowsDelivered := c.rowsDelivered + 1 }) _ fun _ => rfl)

theorem takeSlot_acts (depth : BitVec 2) (r : Nat) (samples : List Half) (i : Fin 16) (s : State) :
    WindowActs s (takeSlot depth r samples i s) := by
  unfold takeSlot
  split
  · rename_i x hx
    refine .trans ?_ (endTest_windowActs ..)
    split
    · exact (cutSegment_acts depth r samples hx).tail (.settle _)
    · exact .refl
  · exact .refl

theorem copyInfo_acts (payload : List Byte) (i : Fin 16) (s : State) : WindowActs s (copyInfo payload i s) := by
  unfold copyInfo
  split
  · rename_i x hx
    split
    · split
      · exact .single (.event ..)
      · rename_i ids u hclaim
        have hcontext : (s.slot i).context = some x := by simp only [Slot.context, hx]
        exact .single (.store i x _ ids _ s u hcontext hclaim (fillBlocks_ids ..))
    · exact .refl
  · exact .refl

theorem framePixel_acts {depth : BitVec 2} {row : BitVec 12} {samples : List Half}
    {during : List (Fin 16 × RowEvent)} {s : State} (hs : s.receiver.state = .inFrame) :
    Acts (.ingressPixel depth row ⟨samples, during⟩) s (framePixel depth row.toNat samples during s) := by
  have hrow := row.isLt
  have hadvance : Acts (.ingressPixel depth row ⟨samples, during⟩) s
      (s.setReceiver (s.receiver.advance row.toNat)) :=
    acts_setReceiver (.progress (row := row.toNat + 1) (info := s.receiver.infoCount) hs (fun _ => hrow) id fun _ => rfl)
  unfold framePixel
  dsimp only
  split
  · exact countedFault_acts ..
  · refine hadvance.trans ?_
    generalize s.setReceiver (s.receiver.advance row.toNat) = v
    split
    · refine (missRows_acts s.receiver.expectedRow (row.toNat - s.receiver.expectedRow) v).trans ?_
      generalize missRows s.receiver.expectedRow (row.toNat - s.receiver.expectedRow) v = w
      exact forTurns_acts (fun i e he => ⟨i, during, he, .inl ⟨depth, row, samples, rfl⟩⟩) (takeSlot_acts _ _ _) w
    · exact missRows_acts ..

theorem ingressPixel_acts {depth : BitVec 2} {row : BitVec 12} {samples : List Half}
    {during : List (Fin 16 × RowEvent)} {s u : State} (h : ingressPixel depth row samples during s = some u) :
    Acts (.ingressPixel depth row ⟨samples, during⟩) s u := by
  cases hs : s.receiver.state <;> simp only [ingressPixel, hs, Option.some.injEq, reduceCtorEq] at h <;> subst h
  case inFrame => exact framePixel_acts hs
  all_goals exact strayLine_acts ..

theorem ingressInfo_acts {payload : List Byte} {during : List (Fin 16 × RowEvent)} {s u : State}
    (h : ingressInfo payload during s = some u) : Acts (.ingressInfo ⟨payload, during⟩) s u := by
  cases hs : s.receiver.state <;> simp only [ingressInfo, hs, Option.some.injEq, reduceCtorEq] at h <;> subst h
  case inFrame =>
    unfold frameInfo
    split
    case isFalse => exact countedFault_acts ..
    case isTrue hlimits =>
      have hcount : Acts (.ingressInfo ⟨payload, during⟩) s
          (s.setReceiver { s.receiver with infoCount := s.receiver.infoCount + 1 }.restartTimer) :=
        acts_setReceiver (.progress (row := s.receiver.expectedRow) hs id (fun _ => hlimits.2) fun _ => rfl)
      refine hcount.trans ?_
      generalize s.setReceiver _ = v
      exact forTurns_acts (fun i e he => ⟨i, during, he, .inr ⟨payload, rfl⟩⟩) (copyInfo_acts payload) v
  all_goals exact strayLine_acts ..

/-! ### Every command -/

/-- An event of a port that comes alone. -/
theorem event_acts {e : RowEvent} {s u : State} (hport : ∀ tag, e ≠ .restart tag) (h : eventEffect e s = some u) :
    Acts (commandOfEvent e) s u := .single (.event e s u (.inl rfl) hport h)

/-- Every command concludes with an effect, and an effect is a chain of acts. -/
theorem exec_acts (c : Instr) (s : State) :
    ∃ effect, exec c s = conclude s effect ∧ ∀ u, effect = some u → Acts c s u := by
  cases c with
  | hardReset m1 m0 =>
    exact ⟨_, exec_hardReset m1 m0 s, fun u h => Option.some.inj h ▸ .single (.hardReset m1 m0 s rfl)⟩
  | lockGained => exact ⟨_, rfl, fun u => lockGained_acts rfl⟩
  | lockLost => exact ⟨_, rfl, fun u => lockLost_acts rfl⟩
  | headerFault => exact ⟨_, rfl, fun u => headerFault_acts⟩
  | trailerFailure h => exact ⟨_, rfl, fun u => trailerFailure_acts⟩
  | ingressOpen depth payload => exact ⟨_, rfl, fun u => ingressOpen_acts rfl⟩
  | ingressPixel depth row content => exact ⟨_, rfl, fun u => ingressPixel_acts⟩
  | ingressInfo content => exact ⟨_, rfl, fun u => ingressInfo_acts⟩
  | ingressClose payload => exact ⟨_, rfl, fun u => ingressClose_acts⟩
  | strayControlLine channel payload => exact ⟨_, rfl, fun u => strayControl_acts⟩
  | shortCommandLine payload => exact ⟨_, rfl, fun u => shortCommand_acts⟩
  | unknownCommand tag code args =>
    exact ⟨_, rfl, fun u => takeCommand_acts fun owner h => Option.some.inj h ▸ serves_answer _⟩
  | echo tag args => exact ⟨_, rfl, fun u => takeCommand_acts fun owner => serves_echoAction⟩
  | writeEntry tag args => exact ⟨_, rfl, fun u => takeCommand_acts fun owner => serves_writeEntryAction⟩
  | readEntry tag args => exact ⟨_, rfl, fun u => takeCommand_acts fun owner => serves_readEntryAction⟩
  | selectBank tag args => exact ⟨_, rfl, fun u => takeCommand_acts fun owner => serves_selectBankAction⟩
  | arm tag args => exact ⟨_, rfl, fun u => takeCommand_acts fun owner => serves_armAction⟩
  | disarm tag args => exact ⟨_, rfl, fun u => takeCommand_acts fun owner => serves_disarmAction⟩
  | setPort tag args => exact ⟨_, rfl, fun u => takeCommand_acts fun owner => serves_setPortAction⟩
  | setLine tag args => exact ⟨_, rfl, fun u => takeCommand_acts fun owner => serves_setLineAction⟩
  | setIngress tag args => exact ⟨_, rfl, fun u => takeCommand_acts fun owner => serves_setIngressAction⟩
  | setEvent tag args => exact ⟨_, rfl, fun u => takeCommand_acts fun owner => serves_setEventAction⟩
  | setNotify tag args => exact ⟨_, rfl, fun u => takeCommand_acts fun owner => serves_setNotifyAction⟩
  | ack tag args => exact ⟨_, rfl, fun u => takeCommand_acts fun owner => serves_ackAction⟩
  | readStatus tag args => exact ⟨_, rfl, fun u => takeCommand_acts fun owner => serves_readStatusAction⟩
  | clearCounters tag args => exact ⟨_, rfl, fun u => takeCommand_acts fun owner => serves_clearCountersAction⟩
  | restart tag args => exact ⟨_, rfl, fun u => takeCommand_acts fun owner => serves_restartAction⟩
  | frameSilenceExpiry => exact ⟨_, rfl, fun u => frameSilence_acts⟩
  | readyRise p => exact ⟨_, rfl, fun u => event_acts (e := .readyRise p) fun _ => nofun⟩
  | readyFall p => exact ⟨_, rfl, fun u => event_acts (e := .readyFall p) fun _ => nofun⟩
  | holdTimerExpiry p => exact ⟨_, rfl, fun u => event_acts (e := .stall p) fun _ => nofun⟩
  | recoveryHoldExpiry p => exact ⟨_, rfl, fun u => event_acts (e := .recoveryStall p) fun _ => nofun⟩
  | transmissionComplete p => exact ⟨_, rfl, fun u => event_acts (e := .completion p) fun _ => nofun⟩
  | retryTimerExpiry seq => exact ⟨_, rfl, fun u => retryExpiry_acts⟩
  | triggerPinChange n => exact ⟨_, rfl, fun u => pinChange_acts⟩
  | filterIntervalExpiry n => exact ⟨_, rfl, fun u => filterExpiry_acts⟩
  | triggerEdge n => exact ⟨_, rfl, fun u => triggerEdge_acts⟩

end Sys2Proof.Machine
end

section
/-! SUPPORT. What the events of a port are, and what they and the other acts leave alone. -/

namespace Sys2Proof.Machine

/-! ### The events of a port, case by case (Table 6.2) -/

/-- What an event of a port does, by the state in which the port meets it. -/
inductive PortEvent : RowEvent → State → State → Prop
  | rise (p : Fin 4) (s : State) (hready : (s.port p).ready = false) (hstate : (s.port p).state ≠ .stalled) :
    PortEvent (.readyRise p) s (s.setPort p (s.port p).rise)
  | recover (p : Fin 4) (s : State) (hready : (s.port p).ready = false) (hstate : (s.port p).state = .stalled) :
    PortEvent (.readyRise p) s
      (endRecoveryIfDone p (s.setPort p { s.port p with ready := true, state := .recovering }))
  | fall (p : Fin 4) (s : State) (hready : (s.port p).ready = true) :
    PortEvent (.readyFall p) s (s.setPort p (s.port p).fall)
  | stall (p : Fin 4) (s : State) (hstate : (s.port p).state = .held) (hrun : (s.port p).holdTimer.isRunning = true) :
    PortEvent (.stall p) s (reportStall p (stalledPart p s))
  | stallAgain (p : Fin 4) (s : State) (hstate : (s.port p).state = .recovering)
    (hrun : (s.port p).holdTimer.isRunning = true) :
    PortEvent (.recoveryStall p) s (reportStall p (s.setPort p (s.port p).stall))
  | complete (p : Fin 4) (x : Transmission) (s : State) (hline : (s.port p).transmission = some x) :
    PortEvent (.completion p) s (nextState p (completedPart p x s))

theorem portEvent_of_eventEffect {e : RowEvent} {s u : State} (hport : ∀ tag, e ≠ .restart tag)
    (h : eventEffect e s = some u) : PortEvent e s u := by
  cases e with
  | restart tag => exact absurd rfl (hport tag)
  | completion p =>
    change transmissionComplete p s = some u at h
    cases hline : (s.port p).transmission with
    | none => rw [transmissionComplete_of_none hline] at h; cases h
    | some x =>
      rw [transmissionComplete_of_line hline] at h
      exact Option.some.inj h ▸ .complete p x s hline
  | stall p =>
    simp only [eventEffect, holdTimerExpiry, Option.ite_none_right_eq_some] at h
    obtain ⟨⟨hstate, hrun⟩, hu⟩ := h
    exact Option.some.inj hu ▸ .stall p s hstate hrun
  | recoveryStall p =>
    simp only [eventEffect, recoveryHoldExpiry, Option.ite_none_right_eq_some] at h
    obtain ⟨⟨hstate, hrun⟩, hu⟩ := h
    exact Option.some.inj hu ▸ .stallAgain p s hstate hrun
  | readyFall p =>
    simp only [eventEffect, readyFall, Option.ite_none_right_eq_some] at h
    obtain ⟨hready, hu⟩ := h
    exact Option.some.inj hu ▸ .fall p s hready
  | readyRise p =>
    simp only [eventEffect, readyRise, Option.ite_none_left_eq_some, Bool.not_eq_true] at h
    obtain ⟨hready, hu⟩ := h
    obtain rfl := Option.some.inj hu
    by_cases hstate : (s.port p).state = .stalled
    · rw [if_pos hstate, show (s.port p).rise = { s.port p with ready := true, state := .recovering } by
        rw [Port.rise, hstate]]
      exact .recover p s hready hstate
    · rw [if_neg hstate]
      exact .rise p s hready hstate

/-! ### What moves when a port does -/

/-- From s to u only slots, ports, the free list, the queues and the fault line's port trouble have moved, and no
setting. -/
structure PartMoves (s u : State) : Prop where
  rest : u = { s with
    slots := u.slots, ports := u.ports, freeList := u.freeList, responses := u.responses, notify := u.notify
    fault := u.fault }
  faultSilent : u.fault.silent = s.fault.silent
  silent : u.notify.silent = s.notify.silent
  settings : u.notify.settings = s.notify.settings
  retry : u.notify.retryInterval = s.notify.retryInterval ∧ u.notify.retryLimit = s.notify.retryLimit
  enable : ∀ p, (u.port p).enable = (s.port p).enable
  ceiling : ∀ p, (u.port p).ceiling = (s.port p).ceiling
  holdTimeout : ∀ p, (u.port p).holdTimeout = (s.port p).holdTimeout

/-- The same, every pin and every open-stream set as it was. -/
structure PortMoves (s u : State) : Prop extends PartMoves s u where
  ready : ∀ p, (u.port p).ready = (s.port p).ready
  openSet : ∀ p, (u.port p).openSet = (s.port p).openSet

namespace PartMoves

variable {s v u : State}

theorem trans (h : PartMoves s v) (h' : PartMoves v u) : PartMoves s u where
  rest := by rw [h'.rest, h.rest]
  faultSilent := h'.faultSilent.trans h.faultSilent
  silent := h'.silent.trans h.silent
  settings := h'.settings.trans h.settings
  retry := ⟨h'.retry.1.trans h.retry.1, h'.retry.2.trans h.retry.2⟩
  enable p := (h'.enable p).trans (h.enable p)
  ceiling p := (h'.ceiling p).trans (h.ceiling p)
  holdTimeout p := (h'.holdTimeout p).trans (h.holdTimeout p)

variable (h : PartMoves s u)
include h

theorem receiver : u.receiver = s.receiver := by rw [h.rest]
theorem laneLocked : u.laneLocked = s.laneLocked := by rw [h.rest]
theorem banks : u.banks = s.banks := by rw [h.rest]
theorem activeBank : u.activeBank = s.activeBank := by rw [h.rest]
theorem pendingBank : u.pendingBank = s.pendingBank := by rw [h.rest]
theorem mgmt : u.mgmt = s.mgmt := by rw [h.rest]
theorem lines : u.lines = s.lines := by rw [h.rest]
theorem pending : u.pending = s.pending := by rw [h.rest]
theorem governing (i : Fin 16) : u.governing i = s.governing i := by rw [h.rest]; rfl

end PartMoves

namespace PortMoves

variable {s v u : State}

theorem refl (s : State) : PortMoves s s :=
  ⟨⟨rfl, rfl, rfl, rfl, ⟨rfl, rfl⟩, fun _ => rfl, fun _ => rfl, fun _ => rfl⟩, fun _ => rfl, fun _ => rfl⟩

theorem trans (h : PortMoves s v) (h' : PortMoves v u) : PortMoves s u where
  toPartMoves := h.toPartMoves.trans h'.toPartMoves
  ready p := (h'.ready p).trans (h.ready p)
  openSet p := (h'.openSet p).trans (h.openSet p)

theorem of_windowKeeps (h : WindowKeeps s u) : PortMoves s u where
  rest := by
    have hfault := h.moves.fault
    have hrest := h.moves.rest
    rw [hfault, hrest]
  faultSilent := by rw [h.moves.fault]
  silent := h.silent
  settings := h.moves.settings
  retry := h.retry
  enable p := (h.port p).enable
  ceiling p := (h.port p).ceiling
  holdTimeout p := (h.port p).holdTimeout
  ready p := (h.port p).ready
  openSet p := (h.port p).openSet

end PortMoves

/-- A port rewritten but for its settings. -/
theorem partMoves_setPort {p : Fin 4} {q : Port} {s : State} (henable : q.enable = (s.port p).enable)
    (hceiling : q.ceiling = (s.port p).ceiling) (htimeout : q.holdTimeout = (s.port p).holdTimeout) :
    PartMoves s (s.setPort p q) := by
  have hport {α : Type} (f : Port → α) (hf : f q = f (s.port p)) (r : Fin 4) :
      f ((s.setPort p q).port r) = f (s.port r) := by
    rw [port_setPort]
    split
    · rename_i h; subst h; exact hf
    · rfl
  exact ⟨rfl, rfl, rfl, rfl, ⟨rfl, rfl⟩, hport (·.enable) henable, hport (·.ceiling) hceiling,
    hport (·.holdTimeout) htimeout⟩

/-- A port rewritten but for its settings, its pin and its open-stream set. -/
theorem portMoves_setPort {p : Fin 4} {q : Port} {s : State} (henable : q.enable = (s.port p).enable)
    (hceiling : q.ceiling = (s.port p).ceiling) (htimeout : q.holdTimeout = (s.port p).holdTimeout)
    (hready : q.ready = (s.port p).ready) (hset : q.openSet = (s.port p).openSet) : PortMoves s (s.setPort p q) := by
  have hport {α : Type} (f : Port → α) (hf : f q = f (s.port p)) (r : Fin 4) :
      f ((s.setPort p q).port r) = f (s.port r) := by
    rw [port_setPort]
    split
    · rename_i h; subst h; exact hf
    · rfl
  exact ⟨partMoves_setPort henable hceiling htimeout, hport (·.ready) hready, hport (·.openSet) hset⟩

theorem portMoves_raiseEvent (cls : EventClass) (sub : Subject) (hi lo : Byte) (s : State) :
    PortMoves s (raiseEvent cls sub hi lo s) := .of_windowKeeps (windowKeeps_raiseEvent ..)

theorem portMoves_reportTrouble (b : Bool) (s : State) : PortMoves s (reportTrouble b s) :=
  ⟨⟨rfl, rfl, rfl, rfl, ⟨rfl, rfl⟩, fun _ => rfl, fun _ => rfl, fun _ => rfl⟩, fun _ => rfl, fun _ => rfl⟩

theorem begin_kept (n : NotifyUnit) (o : Offer) :
    (n.begin o).silent = n.silent ∧ (n.begin o).settings = n.settings ∧ (n.begin o).retryInterval = n.retryInterval ∧
    (n.begin o).retryLimit = n.retryLimit := by
  cases o <;> exact ⟨rfl, rfl, rfl, rfl⟩

theorem notifyAfter_kept (s : State) (p : Fin 4) :
    (s.notifyAfter p).silent = s.notify.silent ∧ (s.notifyAfter p).settings = s.notify.settings ∧
    (s.notifyAfter p).retryInterval = s.notify.retryInterval ∧
    (s.notifyAfter p).retryLimit = s.notify.retryLimit := by
  unfold State.notifyAfter
  split
  · exact begin_kept ..
  · exact ⟨rfl, rfl, rfl, rfl⟩

theorem portMoves_settlePort (p : Fin 4) (s : State) : PortMoves s (settlePort p s) := by
  obtain ⟨henable, hceiling, -, htimeout, -, hset, -, -, -, hready⟩ := portSending_kept s p
  obtain ⟨hsilent, hsettings, hretry⟩ := notifyAfter_kept s p
  rw [settlePort_eq]
  have hport := portMoves_setPort (s := s) (p := p) (q := { s.portSending p with
    holdTimer := (beginIfWaiting p s).holdTimerFrom p (s.port p).holdTimer }) henable hceiling htimeout hready hset
  exact ⟨⟨rfl, rfl, hsilent, hsettings, hretry, hport.enable, hport.ceiling, hport.holdTimeout⟩, hport.ready,
    hport.openSet⟩

/-- What follows a report that the management port alone passes on to the fault line. -/
theorem portMoves_reportIfMgmt {p : Fin 4} {b : Bool} {s v : State} (h : PortMoves s v) :
    PortMoves s (if p = v.mgmt then reportTrouble b v else v) := by
  split
  · exact h.trans (portMoves_reportTrouble ..)
  · exact h

theorem portMoves_reportStall (p : Fin 4) (s : State) : PortMoves s (reportStall p s) := by
  unfold reportStall
  refine portMoves_reportIfMgmt (.trans ?_ (portMoves_raiseEvent ..))
  exact portMoves_setPort rfl rfl rfl rfl rfl

theorem portMoves_endRecovery (p : Fin 4) (s : State) : PortMoves s (endRecovery p s) := by
  unfold endRecovery
  dsimp only
  have hsettled := (portMoves_setPort (s := s) (p := p)
    (q := { s.port p with state := if (s.port p).ready then .idle else .held }) rfl rfl rfl rfl rfl).trans
    (portMoves_settlePort p _)
  generalize settlePort p _ = v at hsettled ⊢
  refine portMoves_reportIfMgmt (hsettled.trans ?_)
  split
  · refine .trans ?_ (portMoves_raiseEvent ..)
    exact portMoves_setPort rfl rfl rfl rfl rfl
  · exact .refl v

theorem portMoves_endRecoveryIfDone (p : Fin 4) (s : State) : PortMoves s (endRecoveryIfDone p s) := by
  unfold endRecoveryIfDone
  split
  · exact portMoves_endRecovery p s
  · exact .refl s

theorem portMoves_nextState (p : Fin 4) (s : State) : PortMoves s (nextState p s) := by
  unfold nextState
  split
  · exact portMoves_setPort rfl rfl rfl rfl rfl
  · exact portMoves_endRecoveryIfDone p s
  · exact .refl s

theorem portMoves_stalledPart (p : Fin 4) (s : State) : PortMoves s (stalledPart p s) := by
  obtain ⟨slots, ports, hrest⟩ := stalledPart_rest p s
  have hport {α : Type} (f : Port → α) (hf : ∀ n r, f { s.port p with
      state := .stalled, holdTimer := .stopped, queue := [], holding := n, reservations := r } = f (s.port p))
      (r : Fin 4) : f ((stalledPart p s).port r) = f (s.port r) := by
    rw [stalledPart_port]
    split
    · rename_i h; subst h; exact hf ..
    · rfl
  refine ⟨⟨?_, ?_, ?_, ?_, ?_, hport (·.enable) fun _ _ => rfl, hport (·.ceiling) fun _ _ => rfl,
    hport (·.holdTimeout) fun _ _ => rfl⟩, hport (·.ready) fun _ _ => rfl, hport (·.openSet) fun _ _ => rfl⟩ <;>
    rw [hrest]
  exact ⟨rfl, rfl⟩

/-- A completed line leaves all but its port's open-stream set as every move does. -/
theorem completed_notify (n : NotifyUnit) (x : Transmission) :
    (n.completed x).silent = n.silent ∧ (n.completed x).settings = n.settings ∧
    (n.completed x).retryInterval = n.retryInterval ∧ (n.completed x).retryLimit = n.retryLimit := by
  unfold NotifyUnit.completed
  split
  · exact ⟨rfl, rfl, rfl, rfl⟩
  · split <;> exact ⟨rfl, rfl, rfl, rfl⟩

theorem completed_settings (q : Port) (x : Transmission) :
    (q.completed x).enable = q.enable ∧ (q.completed x).ceiling = q.ceiling ∧
    (q.completed x).holdTimeout = q.holdTimeout := by
  unfold Port.completed
  split <;> exact ⟨rfl, rfl, rfl⟩

theorem partMoves_completedPart (p : Fin 4) (x : Transmission) (s : State) : PartMoves s (completedPart p x s) := by
  obtain ⟨hsilent, hsettings, hretry⟩ := completed_notify s.notify x
  obtain ⟨henable, hceiling, htimeout⟩ := completed_settings (s.port p) x
  have hport := partMoves_setPort (s := s) (p := p) (q := (s.port p).completed x) henable hceiling htimeout
  exact ⟨rfl, rfl, hsilent, hsettings, hretry, hport.enable, hport.ceiling, hport.holdTimeout⟩

theorem rise_settings (q : Port) :
    q.rise.enable = q.enable ∧ q.rise.ceiling = q.ceiling ∧ q.rise.holdTimeout = q.holdTimeout ∧
    q.rise.openSet = q.openSet := by
  unfold Port.rise
  split <;> exact ⟨rfl, rfl, rfl, rfl⟩

theorem fall_settings (q : Port) :
    q.fall.enable = q.enable ∧ q.fall.ceiling = q.ceiling ∧ q.fall.holdTimeout = q.holdTimeout ∧
    q.fall.openSet = q.openSet := by
  rw [Port.fall_eq]
  exact ⟨rfl, rfl, rfl, rfl⟩

namespace PortEvent

variable {e : RowEvent} {s u : State} (h : PortEvent e s u)
include h

/-- Every event of a port moves its pin, or has a line completed on it, or neither, and then the port goes on. -/
theorem cases_first :
    (∃ (p : Fin 4) (q : Port), (e = .readyRise p ∨ e = .readyFall p) ∧ q.enable = (s.port p).enable ∧
      q.ceiling = (s.port p).ceiling ∧ q.holdTimeout = (s.port p).holdTimeout ∧ q.openSet = (s.port p).openSet ∧
      PortMoves (s.setPort p q) u) ∨
    (∃ (p : Fin 4) (x : Transmission), e = .completion p ∧ PortMoves (completedPart p x s) u) ∨ PortMoves s u := by
  cases h with
  | rise p =>
    obtain ⟨henable, hceiling, htimeout, hset⟩ := rise_settings (s.port p)
    exact .inl ⟨p, _, .inl rfl, henable, hceiling, htimeout, hset, .refl _⟩
  | recover p =>
    exact .inl ⟨p, { s.port p with ready := true, state := .recovering }, .inl rfl, rfl, rfl, rfl, rfl,
      portMoves_endRecoveryIfDone ..⟩
  | fall p =>
    obtain ⟨henable, hceiling, htimeout, hset⟩ := fall_settings (s.port p)
    exact .inl ⟨p, _, .inr rfl, henable, hceiling, htimeout, hset, .refl _⟩
  | stall p => exact .inr (.inr ((portMoves_stalledPart p s).trans (portMoves_reportStall ..)))
  | stallAgain p =>
    refine .inr (.inr (.trans ?_ (portMoves_reportStall ..)))
    exact portMoves_setPort rfl rfl rfl rfl rfl
  | complete p x => exact .inr (.inl ⟨p, x, rfl, portMoves_nextState ..⟩)

theorem moves : PartMoves s u := by
  rcases h.cases_first with ⟨p, q, -, henable, hceiling, htimeout, -, hrest⟩ | ⟨p, x, -, hrest⟩ | hrest
  · exact (partMoves_setPort henable hceiling htimeout).trans hrest.toPartMoves
  · exact (partMoves_completedPart p x s).trans hrest.toPartMoves
  · exact hrest.toPartMoves

/-- A pin moves by its own events alone (R114). -/
theorem ready_of_ne {p : Fin 4} (hrise : e ≠ .readyRise p) (hfall : e ≠ .readyFall p) :
    (u.port p).ready = (s.port p).ready := by
  rcases h.cases_first with ⟨r, q, he, -, -, -, -, hrest⟩ | ⟨r, x, -, hrest⟩ | hrest
  · have hne : p ≠ r := by
      rintro rfl
      rcases he with he | he
      · exact hrise he
      · exact hfall he
    rw [hrest.ready, port_setPort, if_neg hne]
  · rw [hrest.ready, completedPart_port]
    split
    · rename_i hp; subst hp; exact (completed_kept ..).2.1
    · rfl
  · exact hrest.ready p

/-- An open-stream set changes at the completions of its port alone (R113). -/
theorem openSet_of_ne {p : Fin 4} (hcomplete : e ≠ .completion p) : (u.port p).openSet = (s.port p).openSet := by
  rcases h.cases_first with ⟨r, q, -, -, -, -, hset, hrest⟩ | ⟨r, x, he, hrest⟩ | hrest
  · rw [hrest.openSet, port_setPort]
    split
    · rename_i hp; subst hp; exact hset
    · rfl
  · have hne : p ≠ r := fun hp => hcomplete (hp ▸ he)
    rw [hrest.openSet, completedPart_port, if_neg hne]
  · exact hrest.openSet p

end PortEvent

/-! ### The frames of the other acts -/

/-- The switch of a pending bank (R55). -/
theorem switchBank_rest (s : State) : ∃ slots notify,
    switchBank s = { s with
      activeBank := s.pendingBank.getD s.activeBank, pendingBank := none, slots := slots, notify := notify } ∧
    notify.settings = s.notify.settings ∧ notify.silent = s.notify.silent ∧
    (notify.retryInterval = s.notify.retryInterval ∧ notify.retryLimit = s.notify.retryLimit) := by
  cases hb : s.pendingBank with
  | none =>
    rw [switchBank_none hb]
    refine ⟨s.slots, s.notify, ?_, rfl, rfl, rfl, rfl⟩
    rw [Option.getD_none, ← hb]
  | some b =>
    rw [switchBank_some hb, raiseEvent_eq, changeSlots_rest]
    obtain ⟨hsettings, -, -, hinterval, hlimit, hsilent⟩ := takeAll_kept s.notify _
    exact ⟨_, _, rfl, hsettings, hsilent, hinterval, hlimit⟩

theorem writeEntry_rest (b : Fin 4) (i : Fin 16) (e : Entry) (s : State) : ∃ banks slots,
    (writeEntry b i e s).1 = { s with banks := banks, slots := slots } := by
  unfold writeEntry writeActive
  split
  · split
    · exact ⟨s.banks, s.slots, rfl⟩
    · split
      · exact ⟨s.banks, s.slots, rfl⟩
      · exact ⟨_, _, rfl⟩
  · split
    · exact ⟨s.banks, s.slots, rfl⟩
    · exact ⟨_, s.slots, rfl⟩

theorem selectBank_rest (b : Fin 4) (s : State) : ∃ pending, (selectBank b s).1 = { s with pendingBank := pending } := by
  unfold selectBank
  split
  · split
    · exact ⟨s.pendingBank, rfl⟩
    · exact ⟨none, rfl⟩
  · split
    · exact ⟨s.pendingBank, rfl⟩
    · split
      · exact ⟨s.pendingBank, rfl⟩
      · exact ⟨some b, rfl⟩

theorem setPort_rest (a : PortSettings) (s : State) : ∃ ports, (setPort a s).1 = { s with ports := ports } := by
  unfold setPort
  split
  · exact ⟨s.ports, rfl⟩
  · split
    · exact ⟨s.ports, rfl⟩
    · exact ⟨_, rfl⟩

/-! ### A law of every step -/

/-- A step ends in the state it found, or settles what a chain of acts of its command has made. -/
theorem exec_cases {c : Instr} {s t : State} (h : exec c s = .next t) : t = s ∨ ∃ u, Acts c s u ∧ t = settle u := by
  obtain ⟨effect, hexec, hacts⟩ := exec_acts c s
  rw [hexec] at h
  cases heffect : effect with
  | none =>
    rw [heffect] at h
    exact .inl (Host.Outcome.next.inj h).symm
  | some u =>
    rw [heffect] at h
    exact .inr ⟨u, hacts u heffect, (Host.Outcome.next.inj h).symm⟩

/-- What every act keeps, every command keeps. -/
theorem exec_keeps {P : State → Prop} {c : Instr} {s t : State} (h : exec c s = .next t)
    (hact : ∀ v u, P v → Act c v u → P u) (hs : P s) : P t := by
  have hchain : ∀ u, Acts c s u → P u := fun u hu => by
    induction hu with
    | refl => exact hs
    | tail _ hlast ih => exact hact _ _ ih hlast
  rcases exec_cases h with rfl | ⟨u, hu, rfl⟩
  · exact hs
  · exact hact u _ (hchain u hu) (.window (.settle u))

/-- What every act keeps, and what the queue of commands plays no part in, every step keeps. -/
theorem step_keeps {P : State → Prop} (hact : ∀ c v u, P v → Act c v u → P u)
    (hqueue : ∀ v l, P v → P { v with pending := l }) {s t : State} (hs : P s) (h : step s = .next t) : P t := by
  unfold step at h
  split at h
  · exact Host.Outcome.next.inj h ▸ hs
  · exact exec_keeps h (hact _) (hqueue s _ hs)

end Sys2Proof.Machine
end

section
/-! SUPPORT. Which act may change which setting (R2, R19, R39, R43, R46, R113, R114, R120, R121, R127, R154, R165). -/

namespace Sys2Proof.Machine

/-- From s to u each setting is as it was, or the command is the one that owns it. -/
structure Owned (c : Instr) (s u : State) : Prop where
  mgmt : u.mgmt = s.mgmt
  pending : u.pending = s.pending
  banks : u.banks = s.banks ∨ ∃ tag args, c = .writeEntry tag args
  active : u.activeBank = s.activeBank ∨ ∃ depth payload, c = .ingressOpen depth payload
  settings : u.notify.settings = s.notify.settings ∨ ∃ tag args, c = .setEvent tag args
  retry : (u.notify.retryInterval = s.notify.retryInterval ∧ u.notify.retryLimit = s.notify.retryLimit) ∨
    ∃ tag args, c = .setNotify tag args
  ports : (∀ p, (u.port p).enable = (s.port p).enable ∧ (u.port p).ceiling = (s.port p).ceiling ∧
    (u.port p).holdTimeout = (s.port p).holdTimeout) ∨ ∃ tag args, c = .setPort tag args
  lines : (∀ n, (u.line n).mode = (s.line n).mode ∧ (u.line n).edge = (s.line n).edge ∧
    (u.line n).filter = (s.line n).filter ∧ (u.line n).latch = (s.line n).latch ∧
    (u.line n).boundSlot = (s.line n).boundSlot) ∨ ∃ tag args, c = .setLine tag args
  timeout : u.receiver.silenceTimeout = s.receiver.silenceTimeout ∨ ∃ tag args, c = .setIngress tag args
  ready : ∀ p, (u.port p).ready = (s.port p).ready ∨ c = .readyRise p ∨ c = .readyFall p ∨
    holdsEvent c (.readyRise p) ∨ holdsEvent c (.readyFall p)
  openSet : ∀ p, (u.port p).openSet = (s.port p).openSet ∨ c = .transmissionComplete p ∨
    holdsEvent c (.completion p)
  frame : (u.receiver.frameNumber = s.receiver.frameNumber ∧ u.receiver.depth = s.receiver.depth) ∨
    ∃ depth payload, c = .ingressOpen depth payload
  locked : u.laneLocked = s.laneLocked ∨ c = .lockGained ∨ c = .lockLost

/-- What is the same or owned, twice over. -/
theorem same_or_trans {α : Type} {a b d : α} {Q : Prop} (h : b = a ∨ Q) (h' : d = b ∨ Q) : d = a ∨ Q := by
  rcases h with h | h
  · rcases h' with h' | h'
    · exact .inl (h'.trans h)
    · exact .inr h'
  · exact .inr h

namespace Owned

variable {c : Instr} {s v u : State}

theorem refl (c : Instr) (s : State) : Owned c s s :=
  ⟨rfl, rfl, .inl rfl, .inl rfl, .inl rfl, .inl ⟨rfl, rfl⟩, .inl fun _ => ⟨rfl, rfl, rfl⟩,
    .inl fun _ => ⟨rfl, rfl, rfl, rfl, rfl⟩, .inl rfl, fun _ => .inl rfl, fun _ => .inl rfl, .inl ⟨rfl, rfl⟩, .inl rfl⟩

theorem trans (h : Owned c s v) (h' : Owned c v u) : Owned c s u where
  mgmt := h'.mgmt.trans h.mgmt
  pending := h'.pending.trans h.pending
  banks := same_or_trans h.banks h'.banks
  active := same_or_trans h.active h'.active
  settings := same_or_trans h.settings h'.settings
  retry := by
    rcases h.retry with hr | hr
    · rcases h'.retry with hr' | hr'
      · exact .inl ⟨hr'.1.trans hr.1, hr'.2.trans hr.2⟩
      · exact .inr hr'
    · exact .inr hr
  ports := by
    rcases h.ports with hp | hp
    · rcases h'.ports with hp' | hp'
      · exact .inl fun p => ⟨(hp' p).1.trans (hp p).1, (hp' p).2.1.trans (hp p).2.1, (hp' p).2.2.trans (hp p).2.2⟩
      · exact .inr hp'
    · exact .inr hp
  lines := by
    rcases h.lines with hl | hl
    · rcases h'.lines with hl' | hl'
      · refine .inl fun n => ?_
        obtain ⟨hmode, hedge, hfilter, hlatch, hbound⟩ := hl n
        obtain ⟨hmode', hedge', hfilter', hlatch', hbound'⟩ := hl' n
        exact ⟨hmode'.trans hmode, hedge'.trans hedge, hfilter'.trans hfilter, hlatch'.trans hlatch,
          hbound'.trans hbound⟩
      · exact .inr hl'
    · exact .inr hl
  timeout := same_or_trans h.timeout h'.timeout
  ready p := same_or_trans (h.ready p) (h'.ready p)
  openSet p := same_or_trans (h.openSet p) (h'.openSet p)
  frame := by
    rcases h.frame with hf | hf
    · rcases h'.frame with hf' | hf'
      · exact .inl ⟨hf'.1.trans hf.1, hf'.2.trans hf.2⟩
      · exact .inr hf'
    · exact .inr hf
  locked := same_or_trans h.locked h'.locked

/-- A move of ports and slots, the pins and the open-stream sets being owned. -/
theorem of_partMoves (h : PartMoves s u)
    (hready : ∀ p, (u.port p).ready = (s.port p).ready ∨ c = .readyRise p ∨ c = .readyFall p ∨
      holdsEvent c (.readyRise p) ∨ holdsEvent c (.readyFall p))
    (hset : ∀ p, (u.port p).openSet = (s.port p).openSet ∨ c = .transmissionComplete p ∨
      holdsEvent c (.completion p)) : Owned c s u where
  mgmt := h.mgmt
  pending := h.pending
  banks := .inl h.banks
  active := .inl h.activeBank
  settings := .inl h.settings
  retry := .inl h.retry
  ports := .inl fun p => ⟨h.enable p, h.ceiling p, h.holdTimeout p⟩
  lines := .inl fun n => by unfold State.line; rw [h.lines]; exact ⟨rfl, rfl, rfl, rfl, rfl⟩
  timeout := .inl (by rw [h.receiver])
  ready := hready
  openSet := hset
  frame := .inl ⟨by rw [h.receiver], by rw [h.receiver]⟩
  locked := .inl h.laneLocked

theorem of_portMoves (h : PortMoves s u) : Owned c s u :=
  of_partMoves h.toPartMoves (fun p => .inl (h.ready p)) fun p => .inl (h.openSet p)

/-- An event of a port, alone or inside a row, moves its pin and its open-stream set only as its own. -/
theorem of_portEvent {e : RowEvent} (h : PortEvent e s u) (hcauses : c = commandOfEvent e ∨ holdsEvent c e) :
    Owned c s u := by
  refine of_partMoves h.moves (fun p => ?_) fun p => ?_
  · by_cases hrise : e = .readyRise p
    · subst hrise
      exact .inr (hcauses.elim .inl fun hrow => .inr (.inr (.inl hrow)))
    · by_cases hfall : e = .readyFall p
      · subst hfall
        exact .inr (hcauses.elim (fun hc => .inr (.inl hc)) fun hrow => .inr (.inr (.inr hrow)))
      · exact .inl (h.ready_of_ne hrise hfall)
  · by_cases hcomplete : e = .completion p
    · subst hcomplete
      exact .inr hcauses
    · exact .inl (h.openSet_of_ne hcomplete)

end Owned

/-- A field of the ports that one port's rewriting leaves alone. -/
theorem setPort_field {α : Type} {p : Fin 4} {q : Port} {s : State} (f : Port → α) (hf : f q = f (s.port p)) (r : Fin 4) :
    f ((s.setPort p q).port r) = f (s.port r) := by
  rw [port_setPort]
  split
  · rename_i h; subst h; exact hf
  · rfl

theorem restarted_receiver (r : Receiver) :
    r.restarted.silenceTimeout = r.silenceTimeout ∧ r.restarted.frameNumber = r.frameNumber ∧
    r.restarted.depth = r.depth := by
  unfold Receiver.restarted
  exact ⟨rfl, rfl, rfl⟩

theorem takeAll_owned (n : NotifyUnit) (evs : List PendingEntry) :
    (n.takeAll evs).settings = n.settings ∧
    ((n.takeAll evs).retryInterval = n.retryInterval ∧ (n.takeAll evs).retryLimit = n.retryLimit) := by
  obtain ⟨hsettings, -, -, hinterval, hlimit, -⟩ := takeAll_kept n evs
  exact ⟨hsettings, hinterval, hlimit⟩

/-- Every act but a hard reset changes only the settings that its command owns. -/
theorem act_owned {c : Instr} {s u : State} (h : Act c s u) :
    Owned c s u ∨ ∃ m1 m0, c = .hardReset m1 m0 ∧ u = hardReset m1 m0 s := by
  cases h with
  | window h => exact .inl (.of_portMoves (.of_windowKeeps h.keeps))
  | receiver r lock _ h =>
    left
    exact { Owned.refl c s with timeout := h.timeout, frame := .inl h.frame, locked := h.locked }
  | startFrame depth payload r _ hopen hr =>
    left
    obtain ⟨slots, notify, hrest, hsettings, -, hretry⟩ :=
      switchBank_rest (s.setReceiver (r.startFrame depth payload))
    have htimeout : r.silenceTimeout = s.receiver.silenceTimeout := by
      rcases hr with ⟨rfl, -⟩ | ⟨rfl, -⟩ <;> rfl
    rw [hrest]
    exact { Owned.refl c s with
      active := .inr ⟨depth, payload, hopen⟩
      settings := .inl hsettings
      retry := .inl hretry
      timeout := .inl htimeout
      frame := .inr ⟨depth, payload, hopen⟩ }
  | event e _ _ hcauses hport heffect => exact .inl (.of_portEvent (portEvent_of_eventEffect hport heffect) hcauses)
  | restart =>
    left
    obtain ⟨order, slots, ports, -, hrest⟩ := restartPart_rest s
    have hport := restartPart_port s
    obtain ⟨htimeout, hnumber, hdepth⟩ := restarted_receiver s.receiver
    obtain ⟨hsettings, hretry⟩ := takeAll_owned s.notifyRestarted (s.recoveredEvents order)
    rw [hrest] at hport ⊢
    exact { Owned.refl c s with
      settings := .inl hsettings
      retry := .inl hretry
      ports := .inl fun p => by rw [hport]; exact ⟨rfl, rfl, rfl⟩
      timeout := .inl htimeout
      ready := fun p => .inl (by rw [hport]; rfl)
      openSet := fun p => .inl (by rw [hport]; rfl)
      frame := .inl ⟨hnumber, hdepth⟩ }
  | respond r => exact .inl { Owned.refl c s with }
  | leaveSilent =>
    left
    have hsettings : (leaveSilent s).notify.settings = s.notify.settings := by rw [leaveSilent_eq]; dsimp only; split <;> rfl
    have hretry : (leaveSilent s).notify.retryInterval = s.notify.retryInterval ∧
        (leaveSilent s).notify.retryLimit = s.notify.retryLimit := by
      rw [leaveSilent_eq]; dsimp only; split <;> exact ⟨rfl, rfl⟩
    rw [leaveSilent_eq] at hsettings hretry ⊢
    exact { Owned.refl c s with settings := .inl hsettings, retry := .inl hretry }
  | enterSilent => exact .inl { Owned.refl c s with }
  | notify n _ h => exact .inl { Owned.refl c s with settings := h.settings, retry := h.retry }
  | line n l _ h =>
    left
    refine { Owned.refl c s with lines := ?_ }
    refine h.settings.imp (fun hsame m => ?_) id
    rw [line_setLine]
    split
    · rename_i hm; subst hm; exact hsame
    · exact ⟨rfl, rfl, rfl, rfl, rfl⟩
  | clearSlot i => exact .inl { Owned.refl c s with }
  | clearPort p => exact .inl (.of_portMoves (portMoves_setPort rfl rfl rfl rfl rfl))
  | writeEntry b i e _ howner =>
    left
    obtain ⟨banks, slots, hrest⟩ := writeEntry_rest b i e s
    rw [hrest]
    exact { Owned.refl c s with banks := .inr howner }
  | selectBank b =>
    left
    obtain ⟨pending, hrest⟩ := selectBank_rest b s
    rw [hrest]
    exact { Owned.refl c s with }
  | setPort a _ howner =>
    left
    have hready : ∀ p, ((setPort a s).1.port p).ready = (s.port p).ready := by
      unfold setPort
      split
      · exact fun _ => rfl
      · split
        · exact fun _ => rfl
        · exact setPort_field (·.ready) rfl
    have hset : ∀ p, ((setPort a s).1.port p).openSet = (s.port p).openSet := by
      unfold setPort
      split
      · exact fun _ => rfl
      · split
        · exact fun _ => rfl
        · exact setPort_field (·.openSet) rfl
    obtain ⟨ports, hrest⟩ := setPort_rest a s
    rw [hrest] at hready hset ⊢
    exact { Owned.refl c s with
      ports := .inr howner, ready := fun p => .inl (hready p), openSet := fun p => .inl (hset p) }
  | hardReset m1 m0 _ h => exact .inr ⟨m1, m0, h, rfl⟩

/-- Every command but a hard reset changes only the settings that it owns. -/
theorem exec_owned {c : Instr} {s t : State} (h : exec c s = .next t) (hc : ∀ a b, c ≠ .hardReset a b) :
    Owned c s t := by
  refine exec_keeps (P := Owned c s) h (fun v u hv hact => ?_) (.refl c s)
  rcases act_owned hact with howned | ⟨m1, m0, hreset, -⟩
  · exact hv.trans howned
  · exact absurd hreset (hc m1 m0)

/-- No act touches the rest of the queue. -/
theorem act_pending {c : Instr} {s u : State} (h : Act c s u) : u.pending = s.pending := by
  rcases act_owned h with howned | ⟨m1, m0, -, rfl⟩
  · exact howned.pending
  · obtain ⟨ports, lines, -, -, hrest⟩ := hardReset_rest m1 m0 s
    rw [hrest]

end Sys2Proof.Machine
end

section
/-! The statements about every step of the part, its commands and its settings, settled. -/

namespace Sys2Proof.Machine

/-- Settles O1: a step is the dispatch of the command taken from the front of the queue. -/
theorem stepRunsTheFrontCommand : Obligations.StepRunsTheFrontCommand :=
  ⟨fun s c rest h => by simp only [step, h], fun s h => by simp only [step, h]⟩

/-- Settles O2: every command concludes, with an effect or without one, and no act of an effect touches the queue. -/
theorem everyCommandHasANextState : Obligations.EveryCommandHasANextState := by
  intro c s
  obtain ⟨t, ht⟩ : ∃ t, exec c s = .next t := by
    obtain ⟨effect, hexec, -⟩ := exec_acts c s
    cases effect with
    | none => exact ⟨s, hexec⟩
    | some u => exact ⟨settle u, hexec⟩
  exact ⟨t, ht, exec_keeps (P := fun v => v.pending = s.pending) ht
    (fun v u hv hact => (act_pending hact).trans hv) rfl⟩

/-- Settles O3: each command is a chain of acts, and each act leaves alone the settings that its command does not own. -/
theorem eachSettingChangesOnlyByItsCommand : Obligations.EachSettingChangesOnlyByItsCommand := by
  intro c s t h hc
  have howned := exec_owned h hc
  refine ⟨howned.mgmt, howned.banks.resolve_left, howned.active.resolve_left, howned.settings.resolve_left,
    fun hne => howned.retry.resolve_left fun hsame => ?_, fun p hne => howned.ports.resolve_left fun hsame => ?_,
    fun n hne => howned.lines.resolve_left fun hsame => ?_, howned.timeout.resolve_left,
    fun p => (howned.ready p).resolve_left, fun p => (howned.openSet p).resolve_left,
    fun hne => howned.frame.resolve_left fun hsame => ?_, howned.locked.resolve_left⟩
  · exact hne.elim (· hsame.1) (· hsame.2)
  · obtain ⟨henable, hceiling, htimeout⟩ := hsame p
    rcases hne with hne | hne | hne
    · exact hne henable
    · exact hne hceiling
    · exact hne htimeout
  · obtain ⟨hmode, hedge, hfilter, hlatch, hbound⟩ := hsame n
    rcases hne with hne | hne | hne | hne | hne
    · exact hne hmode
    · exact hne hedge
    · exact hne hfilter
    · exact hne hlatch
    · exact hne hbound
  · exact hne.elim (· hsame.1) (· hsame.2)

end Sys2Proof.Machine
end

section
/-! SUPPORT. The whole state after the end of a recovery, and what each event of a port does to the slots, the free list and
the ports. -/

namespace Sys2Proof.Machine

section
variable {s : State}

/-! ### Bounds of all the slots and of all the ports -/

theorem forall_slot_setSlot {Q : Fin 16 → Slot → Prop} (h : ∀ j, Q j (s.slot j)) {i : Fin 16} {t : Slot} (ht : Q i t)
    (j : Fin 16) : Q j ((s.setSlot i t).slot j) := by
  rw [slot_setSlot]
  split
  · rename_i hj; subst hj; exact ht
  · exact h j

theorem forall_port_setPort {Q : Fin 4 → Port → Prop} (h : ∀ r, Q r (s.port r)) {p : Fin 4} {q : Port} (hq : Q p q)
    (r : Fin 4) : Q r ((s.setPort p q).port r) := by
  rw [port_setPort]
  split
  · rename_i hr; subst hr; exact hq
  · exact h r

end

/-! ### The end of a recovery (R118) -/

/-- Port p has left its recovery for the state that its ready level gives it. -/
def State.resting (s : State) (p : Fin 4) : State := s.setPort p { s.port p with state := (s.port p).restState }

theorem resting_port (s : State) (p r : Fin 4) :
    (s.resting p).port r = if r = p then { s.port p with state := (s.port p).restState } else s.port r :=
  port_setPort ..

/-- The port whose recovery has ended: at rest by its ready level or with its next line begun, its stall reported. -/
def State.recovered (s : State) (p : Fin 4) : Port :=
  { (s.resting p).portSending p with
    holdTimer := (beginIfWaiting p (s.resting p)).holdTimerFrom p (s.port p).holdTimer
    stallOutstanding := false }

theorem settlePort_resting (p : Fin 4) (s : State) : settlePort p (s.resting p) =
    { s.setPort p { (s.resting p).portSending p with
        holdTimer := (beginIfWaiting p (s.resting p)).holdTimerFrom p (s.port p).holdTimer } with
      responses := (s.resting p).responsesAfter p, notify := (s.resting p).notifyAfter p } := by
  have htimer : ((s.resting p).port p).holdTimer = (s.port p).holdTimer := by rw [resting_port, if_pos rfl]
  rw [settlePort_eq, htimer]
  generalize (s.resting p).portSending p = q
  generalize (beginIfWaiting p (s.resting p)).holdTimerFrom p (s.port p).holdTimer = timer
  rw [State.resting, setPort_setPort]

/-- The whole state at the end of a recovery. -/
theorem endRecovery_state (p : Fin 4) (s : State) : endRecovery p s =
    { s.setPort p (s.recovered p) with
      responses := (s.resting p).responsesAfter p
      notify := if (s.port p).stallOutstanding then
          ((s.resting p).notifyAfter p).takeAll [s.eventOf .portState (.port p) 2 0]
        else (s.resting p).notifyAfter p
      fault := if p = s.mgmt then { s.fault with portTrouble := false } else s.fault } := by
  have hstall : ((s.resting p).portSending p).stallOutstanding = (s.port p).stallOutstanding := by
    obtain ⟨-, -, -, -, -, -, hkept, -⟩ := portSending_kept (s.resting p) p
    rw [hkept, resting_port, if_pos rfl]
  rw [endRecovery_eq rfl]
  change (if p = s.mgmt then
      { reportRecovery p (s.port p).stallOutstanding (s.eventOf .portState (.port p) 2 0)
          (settlePort p (s.resting p)) with fault := { s.fault with portTrouble := false } }
    else reportRecovery p (s.port p).stallOutstanding (s.eventOf .portState (.port p) 2 0)
      (settlePort p (s.resting p))) = _
  rw [settlePort_resting, State.recovered]
  generalize (s.resting p).portSending p = q at hstall ⊢
  generalize (beginIfWaiting p (s.resting p)).holdTimerFrom p (s.port p).holdTimer = timer
  generalize (s.resting p).responsesAfter p = responses
  generalize (s.resting p).notifyAfter p = notify
  have hq : ({ q with holdTimer := timer, stallOutstanding := (s.port p).stallOutstanding } : Port) =
      { q with holdTimer := timer } := by rw [← hstall]
  unfold reportRecovery
  cases hout : (s.port p).stallOutstanding with
  | true =>
    have hmark : ∀ r : Port,
        State.setPort { s.setPort p r with responses := responses, notify := notify } p
          { State.port { s.setPort p r with responses := responses, notify := notify } p with
            stallOutstanding := false } =
        { s.setPort p { r with stallOutstanding := false } with responses := responses, notify := notify } := by
      intro r
      rw [show State.port { s.setPort p r with responses := responses, notify := notify } p = r from
        (port_setPort s p p r).trans (if_pos rfl)]
      exact congrArg (fun v : State => { v with responses := responses, notify := notify }) (setPort_setPort s p r _)
    simp only [if_true]
    rw [hmark]
    split <;> rfl
  | false =>
    rw [hout] at hq
    rw [hq]
    simp only [Bool.false_eq_true, if_false]
    split <;> rfl

theorem endRecovery_port (p r : Fin 4) (s : State) :
    (endRecovery p s).port r = if r = p then s.recovered p else s.port r := by
  rw [endRecovery_state]
  exact port_setPort ..

/-- What the end of a recovery leaves of its port. -/
theorem recovered_kept (s : State) (p : Fin 4) :
    (s.recovered p).holding = (s.port p).holding ∧ (s.recovered p).reservations = (s.port p).reservations ∧
    (s.recovered p).recordsSent = (s.port p).recordsSent ∧ (s.recovered p).rowsDropped = (s.port p).rowsDropped ∧
    (s.recovered p).departures = (s.port p).departures := by
  obtain ⟨-, -, hholding, -, hreservations, -, -, hsent, hdropped, -⟩ := portSending_kept (s.resting p) p
  have hdepartures := portSending_departures (s.resting p) p
  rw [resting_port, if_pos rfl] at hholding hreservations hsent hdropped hdepartures
  exact ⟨hholding, hreservations, hsent, hdropped, hdepartures⟩

theorem endRecoveryIfDone_cases (p : Fin 4) (s : State) :
    (((s.port p).openSet = 0 ∧ (s.port p).transmission = none) ∧ endRecoveryIfDone p s = endRecovery p s) ∨
    (¬((s.port p).openSet = 0 ∧ (s.port p).transmission = none) ∧ endRecoveryIfDone p s = s) := by
  unfold endRecoveryIfDone
  split
  · rename_i h; exact .inl ⟨h, rfl⟩
  · rename_i h; exact .inr ⟨h, rfl⟩

/-! ### Slots and free list under the events of a port -/

theorem endRecoveryIfDone_rest (p : Fin 4) (s : State) :
    (endRecoveryIfDone p s).slots = s.slots ∧ (endRecoveryIfDone p s).freeList = s.freeList := by
  rcases endRecoveryIfDone_cases p s with ⟨-, h⟩ | ⟨-, h⟩
  · rw [h, endRecovery_state]; exact ⟨rfl, rfl⟩
  · rw [h]; exact ⟨rfl, rfl⟩

theorem nextState_rest (p : Fin 4) (s : State) :
    (nextState p s).slots = s.slots ∧ (nextState p s).freeList = s.freeList := by
  unfold nextState
  split
  · exact ⟨rfl, rfl⟩
  · exact endRecoveryIfDone_rest p s
  · exact ⟨rfl, rfl⟩

/-- A stall settles the slots routed to its port; no other event of a port moves a slot (R80). -/
theorem PortEvent.slot {e : RowEvent} {s u : State} (h : PortEvent e s u) (i : Fin 16) :
    u.slot i = s.slot i ∨ u.slot i = { s.slot i with state := settledState (s.governing i) (s.slot i).armCount } := by
  cases h with
  | rise | fall => exact .inl rfl
  | stallAgain p => rw [reportStall_eq]; exact .inl rfl
  | recover p =>
    left
    unfold State.slot
    rw [(endRecoveryIfDone_rest ..).1]
    rfl
  | complete p x =>
    left
    unfold State.slot
    rw [(nextState_rest ..).1]
    rfl
  | stall p =>
    have hslot := stalledPart_slot p s i
    rw [reportStall_eq]
    generalize stalledPart p s = v at hslot ⊢
    change v.slot i = _ ∨ v.slot i = _
    rw [hslot]
    split
    · exact .inr rfl
    · exact .inl rfl

/-! ### A fact of every port under the events of one -/

section
variable {Q : Fin 4 → Port → Prop} {p : Fin 4} {s : State}

theorem forall_port_endRecoveryIfDone (h : ∀ r, Q r (s.port r))
    (hq : (s.port p).openSet = 0 → (s.port p).transmission = none → Q p (s.recovered p)) (r : Fin 4) :
    Q r ((endRecoveryIfDone p s).port r) := by
  rcases endRecoveryIfDone_cases p s with ⟨⟨hset, hidle⟩, hdone⟩ | ⟨-, hdone⟩
  · rw [hdone, endRecovery_port]
    split
    · rename_i hr; subst hr; exact hq hset hidle
    · exact h r
  · rw [hdone]; exact h r

end

end Sys2Proof.Machine
end

section
/-! SUPPORT. The laws of the trigger lines, the receiver, the counters, the slots and the window table, act by act. -/

namespace Sys2Proof.Machine

variable {c : Instr} {s u : State}

/-! ### The trigger lines (R128, R129) -/

theorem lineLaw_of_lines (hlines : u.lines = s.lines) (h : s.LineLaw) : u.LineLaw := by
  unfold State.LineLaw State.line at *
  rwa [hlines]

theorem lawful_hardReset (l : TriggerLine) : l.hardReset.Lawful :=
  ⟨Nat.zero_le _, fun _ => by simp [TriggerLine.hardReset, TriggerLine.reset, Timer.isRunning], fun _ => rfl⟩

theorem act_lineLaw (hs : s.LineLaw) (h : Act c s u) : u.LineLaw := by
  cases h with
  | window h => exact lineLaw_of_lines h.keeps.moves.lines hs
  | receiver | respond | enterSilent | notify | clearSlot | clearPort => exact lineLaw_of_lines (by rfl) hs
  | startFrame depth payload r =>
    obtain ⟨slots, notify, hrest, -⟩ := switchBank_rest (s.setReceiver (r.startFrame depth payload))
    exact lineLaw_of_lines (by rw [hrest]; rfl) hs
  | event e _ _ _ hport heffect => exact lineLaw_of_lines (portEvent_of_eventEffect hport heffect).moves.lines hs
  | restart =>
    obtain ⟨order, slots, ports, -, hrest⟩ := restartPart_rest s
    exact lineLaw_of_lines (by rw [hrest]) hs
  | leaveSilent => exact lineLaw_of_lines (by rw [leaveSilent_eq]) hs
  | line n l _ h =>
    intro m
    rw [line_setLine]
    split
    · exact h.lawful (hs n)
    · exact hs m
  | writeEntry b i e =>
    obtain ⟨banks, slots, hrest⟩ := writeEntry_rest b i e s
    exact lineLaw_of_lines (by rw [hrest]) hs
  | selectBank b =>
    obtain ⟨pending, hrest⟩ := selectBank_rest b s
    exact lineLaw_of_lines (by rw [hrest]) hs
  | setPort a =>
    obtain ⟨ports, hrest⟩ := setPort_rest a s
    exact lineLaw_of_lines (by rw [hrest]) hs
  | hardReset m1 m0 =>
    obtain ⟨ports, lines, -, hlines, hrest⟩ := hardReset_rest m1 m0 s
    intro n
    have hline : (hardReset m1 m0 s).line n = (s.line n).hardReset := by rw [hrest]; exact hlines n
    rw [hline]
    exact lawful_hardReset _

/-! ### The counters (R41, R86, R123) -/

/-- A record stored: its blocks taken from the front of the free list, its place at the tail of the queue (R93, R94). -/
theorem stored_eq {p : Fin 4} {k : Nat} {ids : List Nat} {v : State} (r : Record) (h : claim p k s = .ok (ids, v)) :
    enqueue p r v = { s.setPort p { s.port p with
      holding := (s.port p).holding + k, queue := (s.port p).queue ++ [r] } with freeList := s.freeList.drop k } := by
  obtain ⟨-, -, rfl⟩ := claim_ok h
  simp only [enqueue, State.setPort, State.port, Fin.getElem_fin, Vector.set_set, Vector.getElem_set_self]

/-- The counters of a slot are 16-bit values. -/
def Slot.Counts (t : Slot) : Prop := t.opened ≤ 65535 ∧ t.skipped ≤ 65535

/-- The counters of a port are 16-bit values. -/
def Port.Counts (q : Port) : Prop := q.recordsSent ≤ 65535 ∧ q.rowsDropped ≤ 65535

/-- The receiver lawful, and every counter a 16-bit value. -/
structure State.Counted (s : State) : Prop where
  receiver : s.receiver.Lawful s.laneLocked
  counts : s.receiver.Counts
  slot : ∀ i, (s.slot i).Counts
  port : ∀ p, (s.port p).Counts

theorem counted_iff (s : State) : s.Counted ↔ s.ReceiverLaw ∧ s.CounterLaw :=
  ⟨fun h => ⟨h.receiver, h.counts, h.slot, h.port⟩, fun ⟨hreceiver, hcounts, hslot, hport⟩ =>
    ⟨hreceiver, hcounts, hslot, hport⟩⟩

theorem counts_ended {t : Slot} (h : t.Counts) (e : Entry) : (t.ended e).Counts := by
  unfold Slot.ended
  split <;> exact h

theorem endWindow_slot (code : CompletionCode) (i j : Fin 16) (s : State) :
    (endWindow code i s).slot j = if j = i then (s.slot i).ended (s.governing i) else s.slot j := by
  split
  · rename_i hj; subst hj; exact endWindow_slot_ended ..
  · rename_i hj; exact endWindow_slot_of_ne (Ne.symm hj) ..

theorem counts_askOpening (i : Fin 16) (hslot : ∀ i, (s.slot i).Counts) (hport : ∀ p, (s.port p).Counts) :
    (∀ j, ((askOpening i s).slot j).Counts) ∧ ∀ p, ((askOpening i s).port p).Counts := by
  have hrefuse (reason : Byte) : (∀ j, ((refuseOpening reason i s).slot j).Counts) ∧
      ∀ p, ((refuseOpening reason i s).port p).Counts := by
    rw [refuseOpening_eq]
    exact ⟨forall_slot_setSlot (Q := fun _ => Slot.Counts) hslot ⟨(hslot i).1, satInc_le _⟩, hport⟩
  unfold askOpening
  dsimp only
  split
  · split
    · exact hrefuse 1
    · split
      · exact ⟨forall_slot_setSlot (Q := fun _ => Slot.Counts) hslot ⟨satInc_le _, (hslot i).2⟩,
          forall_port_setPort (Q := fun _ => Port.Counts) hport (hport _)⟩
      · exact hrefuse 2
  · exact ⟨hslot, hport⟩

theorem WindowAct.counts (hslot : ∀ i, (s.slot i).Counts) (hport : ∀ p, (s.port p).Counts) (h : WindowAct s u) :
    (∀ i, (u.slot i).Counts) ∧ ∀ p, (u.port p).Counts := by
  cases h with
  | event cls sub hi lo => rw [raiseEvent_eq]; exact ⟨hslot, hport⟩
  | settle =>
    refine ⟨fun i => by rw [(stepEnds_settle s).slot]; exact hslot i, fun p => ?_⟩
    obtain ⟨-, -, -, -, -, -, -, hsent, hdropped, -⟩ := portSending_kept s p
    rw [(stepEnds_settle s).port p]
    exact ⟨hsent.le.trans (hport p).1, hdropped.le.trans (hport p).2⟩
  | endWindow code i =>
    refine ⟨fun j => ?_, fun p => by rw [(windowsEnd_endWindow code i s).port p]; exact hport p⟩
    rw [endWindow_slot]
    split
    · exact counts_ended (hslot i) _
    · exact hslot j
  | mark i f =>
    refine ⟨fun j => ?_, fun p => ?_⟩
    · rw [updateContext_slot]
      split
      · split <;> exact hslot i
      · exact hslot j
    · unfold updateContext
      split <;> exact hport p
  | countDrop p =>
    exact ⟨hslot, forall_port_setPort (Q := fun _ => Port.Counts) hport ⟨(hport p).1, satInc_le _⟩⟩
  | store i x k ids r v _ _ hclaim =>
    rw [stored_eq r hclaim]
    exact ⟨hslot, forall_port_setPort (Q := fun _ => Port.Counts) hport (hport _)⟩
  | countHoldOff i => exact ⟨forall_slot_setSlot (Q := fun _ => Slot.Counts) hslot (hslot i), hport⟩
  | askOpening i => exact counts_askOpening i hslot hport
  | rearm i count => exact ⟨forall_slot_setSlot (Q := fun _ => Slot.Counts) hslot (hslot i), hport⟩

/-- What the switch of a pending bank leaves of each slot. -/
theorem switchBank_slot (s : State) (i : Fin 16) :
    (switchBank s).slot i =
      match s.pendingBank with
      | some b => (s.slot i).resetUnder (s.entry b i)
      | none => s.slot i := by
  cases hb : s.pendingBank with
  | none => rw [switchBank_none hb]
  | some b =>
    rw [switchBank_some hb, raiseEvent_eq]
    have hslot := changeSlots_slot (change := fun _ e t => t.resetUnder e) { s with activeBank := b, pendingBank := none } i
    generalize State.changeSlots _ _ = v at hslot ⊢
    exact hslot

theorem counts_reportStall (p : Fin 4) (hport : ∀ r, (s.port r).Counts) (r : Fin 4) : ((reportStall p s).port r).Counts := by
  rw [reportStall_eq]
  have hmarked := forall_port_setPort (Q := fun _ => Port.Counts) hport (p := p)
    (q := { s.port p with stallOutstanding := true }) (hport p)
  exact hmarked r

/-- The events of a port count its records and touch no other counter. -/
theorem PortEvent.counts {e : RowEvent} (h : PortEvent e s u) (hslot : ∀ i, (s.slot i).Counts)
    (hport : ∀ p, (s.port p).Counts) : (∀ i, (u.slot i).Counts) ∧ ∀ p, (u.port p).Counts := by
  refine ⟨fun i => ?_, ?_⟩
  · rcases h.slot i with hi | hi
    · rw [hi]; exact hslot i
    · rw [hi]; exact hslot i
  have hrecovered (v : State) (p : Fin 4) (hv : ∀ r, (v.port r).Counts) (r : Fin 4) :
      ((endRecoveryIfDone p v).port r).Counts := by
    refine forall_port_endRecoveryIfDone (Q := fun _ => Port.Counts) hv (fun _ _ => ?_) r
    obtain ⟨-, -, hsent, hdropped, -⟩ := recovered_kept v p
    exact ⟨hsent.le.trans (hv p).1, hdropped.le.trans (hv p).2⟩
  cases h with
  | rise p =>
    refine forall_port_setPort (Q := fun _ => Port.Counts) hport ?_
    unfold Port.rise
    split <;> exact hport p
  | recover p => exact hrecovered _ p (forall_port_setPort (Q := fun _ => Port.Counts) hport (hport p))
  | fall p =>
    rw [Port.fall_eq]
    exact forall_port_setPort (Q := fun _ => Port.Counts) hport (hport p)
  | stall p =>
    have hstalled : ∀ r, ((stalledPart p s).port r).Counts := fun r => by
      rw [stalledPart_port]
      split
      · exact hport p
      · exact hport r
    exact counts_reportStall p hstalled
  | stallAgain p => exact counts_reportStall p (forall_port_setPort (Q := fun _ => Port.Counts) hport (hport p))
  | complete p x =>
    have hcompleted : ∀ r, ((completedPart p x s).port r).Counts := fun r => by
      rw [completedPart_port]
      split
      · unfold Port.completed
        split
        · exact hport p
        · exact ⟨satInc_le _, (hport p).2⟩
      · exact hport r
    unfold nextState
    split
    · exact forall_port_setPort (Q := fun _ => Port.Counts) hcompleted (hcompleted p)
    · exact hrecovered _ p hcompleted
    · exact hcompleted

theorem lawful_reset : State.reset.receiver.Lawful State.reset.laneLocked := by
  unfold Receiver.Lawful
  decide

theorem counts_reset : State.reset.receiver.Counts := by
  unfold Receiver.Counts
  decide

theorem reset_slot (i : Fin 16) : State.reset.slot i = Slot.reset := by
  simp [State.slot, State.reset]

theorem lawful_restarted {r : Receiver} {lock : Bool} (h : r.Lawful lock) (hlines : r.state ≠ .noSignal) :
    r.restarted.Lawful lock := by
  obtain ⟨hrow, hinfo, hout, -, hlock⟩ := h
  exact ⟨hrow, hinfo, hout, by simp [Receiver.restarted, Timer.isRunning],
    iff_of_true (hlock.mpr hlines) (by simp [Receiver.restarted])⟩

theorem counts_restarted {r : Receiver} (h : r.Counts) : r.restarted.Counts := by
  obtain ⟨htaken, haborted, hfaults, hstray⟩ := h
  refine ⟨htaken, ?_, hfaults, hstray⟩
  unfold Receiver.restarted
  dsimp only
  split
  · exact satInc_le _
  · exact haborted

theorem act_counted (hs : s.Counted) (h : Act c s u) : u.Counted := by
  obtain ⟨hreceiver, hcounts, hslot, hport⟩ := id hs
  cases h with
  | window h =>
    obtain ⟨hslot, hport⟩ := h.counts hslot hport
    have hmoves := h.keeps.moves
    exact ⟨by rw [hmoves.receiver, hmoves.laneLocked]; exact hreceiver, by rw [hmoves.receiver]; exact hcounts, hslot,
      hport⟩
  | receiver r lock _ h => exact ⟨h.lawful hreceiver, h.counts hcounts, hslot, hport⟩
  | respond | enterSilent | notify => exact ⟨hreceiver, hcounts, hslot, hport⟩
  | line n l => exact ⟨hreceiver, hcounts, hslot, hport⟩
  | clearSlot i =>
    exact ⟨hreceiver, hcounts, forall_slot_setSlot (Q := fun _ => Slot.Counts) hslot ⟨Nat.zero_le _, Nat.zero_le _⟩,
      hport⟩
  | clearPort p =>
    exact ⟨hreceiver, hcounts, hslot,
      forall_port_setPort (Q := fun _ => Port.Counts) hport ⟨Nat.zero_le _, Nat.zero_le _⟩⟩
  | leaveSilent => rw [leaveSilent_eq]; exact ⟨hreceiver, hcounts, hslot, hport⟩
  | startFrame depth payload r _ _ hr hlines =>
    have hr' : r.silenceTimeout = s.receiver.silenceTimeout ∧ r.Counts := by
      obtain ⟨htaken, haborted, hfaults, hstray⟩ := hcounts
      rcases hr with ⟨rfl, -⟩ | ⟨rfl, -⟩
      · exact ⟨rfl, htaken, haborted, hfaults, hstray⟩
      · exact ⟨rfl, htaken, satInc_le _, hfaults, hstray⟩
    obtain ⟨htimeout, -, haborted, hfaults, hstray⟩ := hr'
    have hslots := switchBank_slot (s.setReceiver (r.startFrame depth payload))
    obtain ⟨slots, notify, hrest, -⟩ := switchBank_rest (s.setReceiver (r.startFrame depth payload))
    have hcount : ∀ i, ((switchBank (s.setReceiver (r.startFrame depth payload))).slot i).Counts := fun i => by
      rw [hslots]
      split
      · exact hslot i
      · exact hslot i
    rw [hrest] at hcount ⊢
    refine ⟨⟨Nat.zero_le _, Nat.zero_le _, ?_, iff_of_true rfl rfl,
      iff_of_true (hreceiver.locked hlines) (by simp [Receiver.startFrame, State.setReceiver])⟩,
      ⟨satInc_le _, haborted, hfaults, hstray⟩, hcount, hport⟩
    change 1 ≤ r.silenceTimeout ∧ r.silenceTimeout ≤ 255
    rw [htimeout]
    exact hreceiver.2.2.1
  | event e _ _ _ hp heffect =>
    have hevent := portEvent_of_eventEffect hp heffect
    obtain ⟨hslot, hport⟩ := hevent.counts hslot hport
    have hmoves := hevent.moves
    exact ⟨by rw [hmoves.receiver, hmoves.laneLocked]; exact hreceiver, by rw [hmoves.receiver]; exact hcounts, hslot,
      hport⟩
  | restart _ hlines =>
    have hslots := restartPart_slot s
    have hports := restartPart_port s
    obtain ⟨order, slots, ports, -, hrest⟩ := restartPart_rest s
    have hslot' : ∀ i, ((restartPart s).1.slot i).Counts := fun i => by rw [hslots]; exact hslot i
    have hport' : ∀ p, ((restartPart s).1.port p).Counts := fun p => by rw [hports]; exact hport p
    rw [hrest] at hslot' hport' ⊢
    exact ⟨lawful_restarted hreceiver hlines, counts_restarted hcounts, hslot', hport'⟩
  | writeEntry b i e =>
    have hslots : ∀ j, ((Machine.writeEntry b i e s).1.slot j).Counts := by
      unfold Machine.writeEntry writeActive
      split
      · split
        · exact hslot
        · split
          · exact hslot
          · exact forall_slot_setSlot (Q := fun _ => Slot.Counts) hslot (hslot i)
      · split <;> exact hslot
    obtain ⟨banks, slots, hrest⟩ := writeEntry_rest b i e s
    rw [hrest] at hslots ⊢
    exact ⟨hreceiver, hcounts, hslots, hport⟩
  | selectBank b =>
    obtain ⟨pending, hrest⟩ := selectBank_rest b s
    rw [hrest]
    exact ⟨hreceiver, hcounts, hslot, hport⟩
  | setPort a =>
    have hports : ∀ p, ((Machine.setPort a s).1.port p).Counts := by
      unfold Machine.setPort
      split
      · exact hport
      · split
        · exact hport
        · exact forall_port_setPort (Q := fun _ => Port.Counts) hport (hport _)
    obtain ⟨ports, hrest⟩ := setPort_rest a s
    rw [hrest] at hports ⊢
    exact ⟨hreceiver, hcounts, hslot, hports⟩
  | hardReset m1 m0 =>
    obtain ⟨ports, lines, hports, -, hrest⟩ := hardReset_rest m1 m0 s
    rw [hrest]
    refine ⟨lawful_reset, counts_reset, fun i => ?_, fun p => ?_⟩
    · change (State.reset.slot i).Counts
      rw [reset_slot]
      exact ⟨Nat.zero_le _, Nat.zero_le _⟩
    change ports[p].Counts
    rw [hports]
    exact ⟨Nat.zero_le _, Nat.zero_le _⟩

/-! ### Entries and slots (R43, R64, R65) -/

/-- A slot within its bounds, and settled under its entry unless it is ACTIVE. -/
def Slot.Sound (e : Entry) (t : Slot) : Prop :=
  t.armCount ≤ 15 ∧ t.holdOff ≤ 15 ∧ (t.state.isActive = false → t.state = settledState e t.armCount)

theorem slotLaw_iff (s : State) : s.SlotLaw ↔ ∀ i, (s.slot i).Sound (s.governing i) := Iff.rfl

/-- A slot settled under its entry. -/
theorem sound_settled {t : Slot} {e : Entry} (harm : t.armCount ≤ 15) (hhold : t.holdOff ≤ 15)
    (hstate : t.state = settledState e t.armCount) : t.Sound e := ⟨harm, hhold, fun _ => hstate⟩

theorem sound_ended {t : Slot} {e : Entry} (h : t.Sound e) : (t.ended e).Sound e := by
  obtain ⟨harm, hhold, -⟩ := id h
  unfold Slot.ended
  split
  · exact ⟨harm, hhold, fun _ => rfl⟩
  · exact h

theorem sound_withArmCount {t : Slot} {e : Entry} (h : t.Sound e) {n : Nat} (hn : n ≤ 15) :
    (t.withArmCount e n).Sound e := by
  obtain ⟨-, hhold, -⟩ := h
  refine ⟨hn, hhold, fun hidle => ?_⟩
  unfold Slot.withArmCount at hidle ⊢
  dsimp only at hidle ⊢
  split
  · rename_i hactive; rw [if_pos hactive, hactive] at hidle; cases hidle
  · rfl

theorem sound_opening {t : Slot} {e : Entry} (h : t.Sound e) (he : e.Legal) : (t.opening e).Sound e := by
  obtain ⟨harm, hhold, -⟩ := h
  obtain ⟨-, -, hentry⟩ := he
  refine ⟨?_, ?_, fun hidle => by simp [Slot.opening, SlotState.isActive] at hidle⟩
  · unfold Slot.opening
    dsimp only
    split <;> omega
  · unfold Slot.opening
    dsimp only
    split <;> omega

/-- A slot that has lost only its counters' values, its state kept. -/
theorem sound_of_same {t x : Slot} {e : Entry} (h : t.Sound e) (hstate : x.state = t.state)
    (harm : x.armCount = t.armCount) (hhold : x.holdOff ≤ t.holdOff) : x.Sound e := by
  obtain ⟨harm', hhold', hsettled⟩ := h
  exact ⟨harm ▸ harm', hhold.trans hhold', fun hidle => by rw [hstate, harm]; exact hsettled (hstate ▸ hidle)⟩

theorem WindowAct.sound (hentry : s.EntryLaw) (hslot : s.SlotLaw) (h : WindowAct s u) :
    ∀ i, (u.slot i).Sound (s.governing i) := by
  cases h with
  | event cls sub hi lo => rw [raiseEvent_eq]; exact hslot
  | settle => intro i; rw [(stepEnds_settle s).slot]; exact hslot i
  | endWindow code i =>
    intro j
    rw [endWindow_slot]
    split
    · rename_i hj; subst hj; exact sound_ended (hslot j)
    · exact hslot j
  | mark i f =>
    intro j
    rw [updateContext_slot]
    split
    · rename_i hj
      subst hj
      split
      · obtain ⟨harm, hhold, -⟩ := hslot j
        exact ⟨harm, hhold, fun hidle => by simp [SlotState.isActive] at hidle⟩
      · exact hslot j
    · exact hslot j
  | countDrop p => exact hslot
  | store i x k ids r v _ _ hclaim => rw [stored_eq r hclaim]; exact hslot
  | countHoldOff i =>
    refine forall_slot_setSlot (Q := fun i => Slot.Sound (s.governing i)) hslot ?_
    exact sound_of_same (hslot i) rfl rfl (Nat.sub_le ..)
  | askOpening i =>
    by_cases hready : (s.slot i).state = .ready
    · by_cases hgrant : (s.port (s.governing i).port).accepting = true ∧
          (s.port (s.governing i).port).queued + (s.port (s.governing i).port).reservations ≤ 126
      · rw [askOpening_granted hready hgrant.1 hgrant.2]
        exact forall_slot_setSlot (s := s.setPort _ _) (Q := fun i => Slot.Sound (s.governing i)) hslot
          (sound_opening (hslot i) (hentry ..))
      · rw [askOpening_refused hready hgrant, refuseOpening_eq]
        refine forall_slot_setSlot (Q := fun i => Slot.Sound (s.governing i)) hslot (i := i)
          (t := { s.slot i with skipped := satInc (s.slot i).skipped }) ?_
        exact sound_of_same (hslot i) rfl rfl le_rfl
    · rw [askOpening_of_not_ready hready]
      exact hslot
  | rearm i count _ hcount =>
    exact forall_slot_setSlot (Q := fun i => Slot.Sound (s.governing i)) hslot
      (sound_withArmCount (hslot i) (hcount (hslot i).1))

/-- The entry law speaks of the banks alone. -/
theorem entryLaw_of_banks (hbanks : u.banks = s.banks) (h : s.EntryLaw) : u.EntryLaw := by
  unfold State.EntryLaw State.entry at *
  rwa [hbanks]

theorem reset_entry (b : Fin 4) (i : Fin 16) : State.reset.entry b i = Entry.reset := by
  simp [State.entry, State.reset]

/-- WRITE_ENTRY stores a legal entry and resets the slot it governs (R49, R50). -/
theorem writeEntry_sound {b : Fin 4} {i : Fin 16} {e : Entry} (he : e.Legal) (hentry : s.EntryLaw)
    (hslot : s.SlotLaw) : (writeEntry b i e s).1.EntryLaw ∧ (writeEntry b i e s).1.SlotLaw := by
  have hstored (b : Fin 4) : (s.setEntry b i e).EntryLaw := fun b' j => by
    rw [entry_setEntry]
    split
    · exact he
    · exact hentry b' j
  have hsame : (s, Reply.done).1.EntryLaw ∧ (s, Reply.done).1.SlotLaw := ⟨hentry, hslot⟩
  unfold writeEntry writeActive
  split
  · split
    · exact hsame
    · split
      · exact hsame
      · refine ⟨hstored _, fun j => ?_⟩
        have hgoverning : (resetSlot i (s.setEntry s.activeBank i e)).governing j = if j = i then e else s.governing j := by
          change (s.setEntry s.activeBank i e).entry s.activeBank j = _
          rw [entry_setEntry]
          simp only [true_and]
          rfl
        have hreset : (resetSlot i (s.setEntry s.activeBank i e)).slot j =
            if j = i then (s.slot i).resetUnder e else s.slot j := by
          have hown : (s.setEntry s.activeBank i e).governing i = e := by
            change (s.setEntry s.activeBank i e).entry s.activeBank i = e
            rw [entry_setEntry, if_pos ⟨rfl, rfl⟩]
          rw [resetSlot, hown, slot_setSlot]
          rfl
        rw [hgoverning, hreset]
        split
        · exact sound_settled (Nat.zero_le _) (Nat.zero_le _) rfl
        · exact hslot j
  · rename_i hb
    split
    · exact hsame
    · refine ⟨hstored _, fun j => ?_⟩
      have hgoverning : (s.setEntry b i e).governing j = s.governing j := by
        change (s.setEntry b i e).entry s.activeBank j = _
        rw [entry_setEntry, if_neg fun h => hb h.1.symm]
        rfl
      rw [hgoverning]
      exact hslot j

theorem act_entriesAndSlots (hs : s.EntryLaw ∧ s.SlotLaw) (h : Act c s u) : u.EntryLaw ∧ u.SlotLaw := by
  obtain ⟨hentry, hslot⟩ := id hs
  cases h with
  | window h =>
    have hmoves := h.keeps.moves
    exact ⟨entryLaw_of_banks hmoves.banks hentry, fun i => by rw [hmoves.governing]; exact h.sound hentry hslot i⟩
  | receiver | respond | enterSilent | notify | line | clearPort => exact ⟨hentry, hslot⟩
  | clearSlot i =>
    refine ⟨hentry, forall_slot_setSlot (Q := fun i => Slot.Sound (s.governing i)) hslot ?_⟩
    exact sound_of_same (hslot i) rfl rfl le_rfl
  | leaveSilent => rw [leaveSilent_eq]; exact ⟨hentry, hslot⟩
  | startFrame depth payload r =>
    have hslots := switchBank_slot (s.setReceiver (r.startFrame depth payload))
    obtain ⟨slots, notify, hrest, -⟩ := switchBank_rest (s.setReceiver (r.startFrame depth payload))
    have hsound : ∀ i, ((switchBank (s.setReceiver (r.startFrame depth payload))).slot i).Sound
        (s.entry (s.pendingBank.getD s.activeBank) i) := fun i => by
      rw [hslots]
      cases hb : s.pendingBank with
      | none =>
        rw [show (s.setReceiver (r.startFrame depth payload)).pendingBank = none from hb]
        exact hslot i
      | some b =>
        rw [show (s.setReceiver (r.startFrame depth payload)).pendingBank = some b from hb]
        exact sound_settled (Nat.zero_le _) (Nat.zero_le _) rfl
    rw [hrest] at hsound ⊢
    exact ⟨hentry, hsound⟩
  | event e _ _ _ hp heffect =>
    have hevent := portEvent_of_eventEffect hp heffect
    refine ⟨entryLaw_of_banks hevent.moves.banks hentry, fun i => ?_⟩
    rw [hevent.moves.governing]
    rcases hevent.slot i with hi | hi
    · rw [hi]; exact hslot i
    · rw [hi]; exact sound_settled (hslot i).1 (hslot i).2.1 rfl
  | restart =>
    have hslots := restartPart_slot s
    obtain ⟨order, slots, ports, -, hrest⟩ := restartPart_rest s
    have hsound : ∀ i, ((restartPart s).1.slot i).Sound (s.governing i) := fun i => by
      rw [hslots]
      exact sound_settled (Nat.zero_le _) (Nat.zero_le _) rfl
    rw [hrest] at hsound ⊢
    exact ⟨hentry, hsound⟩
  | writeEntry b i e _ _ he => exact writeEntry_sound he hentry hslot
  | selectBank b =>
    obtain ⟨pending, hrest⟩ := selectBank_rest b s
    rw [hrest]
    exact ⟨hentry, hslot⟩
  | setPort a =>
    obtain ⟨ports, hrest⟩ := setPort_rest a s
    rw [hrest]
    exact ⟨hentry, hslot⟩
  | hardReset m1 m0 =>
    obtain ⟨ports, lines, -, -, hrest⟩ := hardReset_rest m1 m0 s
    rw [hrest]
    refine ⟨fun b i => ?_, fun i => ?_⟩
    · change (State.reset.entry b i).Legal
      rw [reset_entry]
      decide
    · change (State.reset.slot i).Sound (State.reset.entry 0 i)
      rw [reset_entry, reset_slot]
      exact sound_settled (Nat.zero_le _) (Nat.zero_le _) rfl

/-! ### The window table (R45, R46, R48) -/

theorem bankFault_eq_none_iff {bank : Vector Entry 16} {portEnabled : Fin 4 → Bool} :
    bankFault bank portEnabled = none ↔ ∀ i, entryFault bank portEnabled i = none := by
  simp only [bankFault, List.findSome?_eq_none_iff, Option.map_eq_none_iff]
  exact ⟨fun h i => h i (List.mem_finRange i), fun h i _ => h i⟩

/-- An entry passes the checks when it is disabled, or names an enabled port and a stream that no enabled entry before it
has. -/
theorem entryFault_eq_none_iff {bank : Vector Entry 16} {portEnabled : Fin 4 → Bool} {i : Fin 16} :
    entryFault bank portEnabled i = none ↔ bank[i].enable = true → portEnabled bank[i].port = true ∧
      ∀ j, j < i → bank[j].enable = true → bank[j].sameStream bank[i] = false := by
  unfold entryFault
  cases henable : bank[i].enable with
  | false => simp
  | true =>
    cases hport : portEnabled bank[i].port with
    | false => simp
    | true =>
      simp only [Bool.not_true, Bool.false_eq_true, if_false, ite_eq_right_iff, reduceCtorEq, imp_false, allSlots,
        List.any_eq_true, List.mem_finRange, true_and, Bool.and_eq_true, decide_eq_true_eq, not_exists, not_and,
        Bool.not_eq_true, forall_const, and_imp]

/-- A bank that passes goes on passing while the ports that its enabled entries name stay enabled. -/
theorem bankFault_of_enabled {bank : Vector Entry 16} {before after : Fin 4 → Bool}
    (h : bankFault bank before = none)
    (hports : ∀ i : Fin 16, bank[i].enable = true → before bank[i].port = true → after bank[i].port = true) :
    bankFault bank after = none := by
  rw [bankFault_eq_none_iff] at h ⊢
  intro i
  have hi := entryFault_eq_none_iff.mp (h i)
  exact entryFault_eq_none_iff.mpr fun henable => ⟨hports i henable (hi henable).1, (hi henable).2⟩

/-- A bank whose entries are all disabled passes. -/
theorem bankFault_of_disabled {bank : Vector Entry 16} {portEnabled : Fin 4 → Bool}
    (h : ∀ i : Fin 16, bank[i].enable = false) : bankFault bank portEnabled = none := by
  rw [bankFault_eq_none_iff]
  intro i
  rw [entryFault_eq_none_iff, h i]
  exact fun hf => absurd hf Bool.false_ne_true

/-- The table law speaks of the banks, their roles and the port enables alone. -/
theorem tableLaw_congr (hbanks : u.banks = s.banks) (hactive : u.activeBank = s.activeBank)
    (hpending : u.pendingBank = s.pendingBank) (henable : ∀ p, (u.port p).enable = (s.port p).enable)
    (h : s.TableLaw) : u.TableLaw := by
  have hports : u.portEnabled = s.portEnabled := funext henable
  simp only [State.TableLaw, hbanks, hactive, hpending, hports]
  exact h

/-- A port is named by no enabled entry of the active bank or of the pending bank. -/
theorem namedPort_eq_false_iff {p : Fin 4} : s.namedPort p = false ↔
    (∀ i : Fin 16, s.banks[s.activeBank][i].enable = true → s.banks[s.activeBank][i].port ≠ p) ∧
    ∀ b, s.pendingBank = some b → ∀ i : Fin 16, s.banks[b][i].enable = true → s.banks[b][i].port ≠ p := by
  have hnames (bank : Vector Entry 16) :
      bankNames bank p = false ↔ ∀ i : Fin 16, bank[i].enable = true → bank[i].port ≠ p := by
    simp [bankNames, allSlots]
  unfold State.namedPort
  rw [Bool.or_eq_false_iff, hnames]
  refine and_congr_right fun _ => ?_
  cases s.pendingBank with
  | none => simp
  | some b => simp [hnames]

/-- SET_PORT disables no port that the active or the pending bank names (R119). -/
theorem setPort_tableLaw (a : PortSettings) (hs : s.TableLaw) : (setPort a s).1.TableLaw := by
  obtain ⟨hdiffer, hactive, hpending⟩ := id hs
  unfold setPort
  split
  · exact hs
  · split
    · exact hs
    · rename_i hmgmt huse
      have hports : ∀ bank : Vector Entry 16,
          (s.namedPort a.port = false → ∀ i : Fin 16, bank[i].enable = true → bank[i].port ≠ a.port) →
          bankFault bank s.portEnabled = none →
          bankFault bank (s.setPort a.port ((s.port a.port).applySettings a)).portEnabled = none := by
        intro bank hnamed hbank
        refine bankFault_of_enabled hbank fun i henable hbefore => ?_
        unfold State.portEnabled at hbefore ⊢
        rw [port_setPort]
        split
        · rename_i hport
          cases hdisable : a.enable with
          | true => exact hdisable
          | false =>
            rw [hport] at hbefore
            have hfree : s.namedPort a.port = false := by
              by_contra hin
              refine huse ⟨hdisable, hbefore, ?_⟩
              simp only [State.portInUse, Bool.or_eq_true]
              exact .inl (.inl (.inl (.inl (Bool.eq_true_of_not_eq_false hin))))
            exact absurd hport (hnamed hfree i henable)
        · exact hbefore
      exact ⟨hdiffer, hports _ (fun hn => (namedPort_eq_false_iff.mp hn).1) hactive,
        fun b hb => hports _ (fun hn => (namedPort_eq_false_iff.mp hn).2 b hb) (hpending b hb)⟩

theorem selectBank_tableLaw (b : Fin 4) (hs : s.TableLaw) : (selectBank b s).1.TableLaw := by
  obtain ⟨hdiffer, hactive, hpending⟩ := id hs
  unfold selectBank
  split
  · split
    · exact hs
    · exact ⟨nofun, hactive, nofun⟩
  · rename_i hb
    split
    · exact hs
    · split
      · exact hs
      · rename_i hsound
        refine ⟨fun h => hb (Option.some.inj h), hactive, fun b' hb' => ?_⟩
        obtain rfl := Option.some.inj hb'
        exact hsound

theorem banks_setEntry (s : State) (b b' : Fin 4) (i : Fin 16) (e : Entry) :
    (s.setEntry b i e).banks[b'] = if b' = b then s.banks[b].set i.val e else s.banks[b'] := by
  simp only [State.setEntry, Fin.getElem_fin, Vector.getElem_set, Fin.ext_iff, eq_comm]

theorem writeEntry_tableLaw (b : Fin 4) (i : Fin 16) (e : Entry) (hs : s.TableLaw) :
    (writeEntry b i e s).1.TableLaw := by
  obtain ⟨hdiffer, hactive, hpending⟩ := id hs
  unfold writeEntry writeActive
  split
  · split
    · exact hs
    · split
      · exact hs
      · rename_i hsound
        refine ⟨hdiffer, ?_, fun b' hb' => ?_⟩
        · change bankFault (s.setEntry s.activeBank i e).banks[s.activeBank] s.portEnabled = none
          rw [banks_setEntry, if_pos rfl]
          exact hsound
        · change bankFault (s.setEntry s.activeBank i e).banks[b'] s.portEnabled = none
          rw [banks_setEntry, if_neg (show ¬b' = s.activeBank from fun h => hdiffer (h ▸ hb'))]
          exact hpending b' hb'
  · rename_i hb
    split
    · exact hs
    · rename_i hb'
      refine ⟨hdiffer, ?_, fun b'' hb'' => ?_⟩
      · change bankFault (s.setEntry b i e).banks[s.activeBank] s.portEnabled = none
        rw [banks_setEntry, if_neg (show ¬s.activeBank = b from fun h => hb h.symm)]
        exact hactive
      · change bankFault (s.setEntry b i e).banks[b''] s.portEnabled = none
        rw [banks_setEntry, if_neg (show ¬b'' = b from fun h => hb' (h ▸ hb'').symm)]
        exact hpending b'' hb''

theorem act_tableLaw (hs : s.TableLaw) (h : Act c s u) : u.TableLaw := by
  obtain ⟨hdiffer, hactive, hpending⟩ := id hs
  cases h with
  | window h =>
    have hmoves := h.keeps.moves
    exact tableLaw_congr hmoves.banks hmoves.activeBank hmoves.pendingBank (fun p => (h.keeps.port p).enable) hs
  | receiver | respond | enterSilent | notify | line | clearSlot => exact hs
  | clearPort p =>
    exact tableLaw_congr (s := s) rfl rfl rfl (setPort_field (q := { s.port p with recordsSent := 0, rowsDropped := 0 }) (·.enable) rfl) hs
  | leaveSilent => rw [leaveSilent_eq]; exact hs
  | startFrame depth payload r =>
    obtain ⟨slots, notify, hrest, -⟩ := switchBank_rest (s.setReceiver (r.startFrame depth payload))
    rw [hrest]
    refine ⟨nofun, ?_, nofun⟩
    have hnew : ∀ b, b = s.pendingBank.getD s.activeBank → bankFault s.banks[b] s.portEnabled = none := by
      rintro b hb
      cases hp : s.pendingBank with
      | none => rw [hp] at hb; subst hb; exact hactive
      | some b' => rw [hp] at hb; subst hb; exact hpending _ hp
    exact hnew _ rfl
  | event e _ _ _ hp heffect =>
    have hmoves := (portEvent_of_eventEffect hp heffect).moves
    exact tableLaw_congr hmoves.banks hmoves.activeBank hmoves.pendingBank hmoves.enable hs
  | restart =>
    have hports := restartPart_port s
    obtain ⟨order, slots, ports, -, hrest⟩ := restartPart_rest s
    have henable : (restartPart s).1.portEnabled = s.portEnabled := funext fun p => by
      unfold State.portEnabled
      rw [hports]
      rfl
    rw [hrest] at henable ⊢
    refine ⟨nofun, ?_, nofun⟩
    rw [henable]
    exact hactive
  | writeEntry b i e => exact writeEntry_tableLaw b i e hs
  | selectBank b => exact selectBank_tableLaw b hs
  | setPort a => exact setPort_tableLaw a hs
  | hardReset m1 m0 =>
    obtain ⟨ports, lines, -, -, hrest⟩ := hardReset_rest m1 m0 s
    rw [hrest]
    refine ⟨nofun, bankFault_of_disabled fun i => ?_, nofun⟩
    exact congrArg Entry.enable (reset_entry 0 i)

end Sys2Proof.Machine
end

section
/-! The statements about the laws of the window table, the slots, the receiver, the counters and the trigger lines,
settled. -/

namespace Sys2Proof.Machine

/-- Settles O9: no act brings a bank into use that fails the checks, nor disables a port that one in use names. -/
theorem everyStepKeepsTheBankChecks : Obligations.EveryStepKeepsTheBankChecks :=
  fun _ _ hs h => step_keeps (P := State.TableLaw) (fun _ _ _ => act_tableLaw) (fun _ _ hv => hv) hs h

theorem settledState_eq (e : Entry) (armCount : Nat) :
    settledState e armCount =
      if e.enable = false then .off else if e.mode = .continuous then .ready
      else if armCount = 0 then .unarmed else .ready := by
  unfold settledState
  cases e.enable <;> cases e.mode <;> rfl

/-- Settles O10: every act that writes a slot settles it under its entry or makes it ACTIVE. -/
theorem everyStepKeepsEntriesAndSlots : Obligations.EveryStepKeepsEntriesAndSlots := by
  intro s t hs h
  have ht := step_keeps (P := fun v => v.EntryLaw ∧ v.SlotLaw) (fun _ _ _ => act_entriesAndSlots) (fun _ _ hv => hv) hs h
  refine ⟨ht, fun i hidle => ?_⟩
  obtain ⟨-, -, hsettled⟩ := ht.2 i
  have hnot : (t.slot i).state.isActive = false := by
    cases hstate : (t.slot i).state with
    | active c => exact absurd hstate (hidle c)
    | _ => rfl
  exact (hsettled hnot).trans (settledState_eq ..)

/-- Settles O11: every move of the receiver is lawful, and every counter counts to its limit. -/
theorem everyStepKeepsReceiverAndCounters : Obligations.EveryStepKeepsReceiverAndCounters :=
  fun s t hs h => (counted_iff t).mp
    (step_keeps (P := State.Counted) (fun _ _ _ => act_counted)
      (fun _ _ hv => ⟨hv.receiver, hv.counts, hv.slot, hv.port⟩) ((counted_iff s).mpr hs) h)

/-- Settles O15: every move of a trigger line is lawful. -/
theorem everyStepKeepsTheTriggerLines : Obligations.EveryStepKeepsTheTriggerLines :=
  fun _ _ hs h => step_keeps (P := State.LineLaw) (fun _ _ _ => act_lineLaw) (fun _ _ hv => hv) hs h

end Sys2Proof.Machine
end

section
/-! SUPPORT. The laws of the notification queue, the response places and the fault line, act by act. -/

namespace Sys2Proof.Machine

variable {c : Instr} {s u : State}

/-! ### The notification queue (R156, R163) -/

/-- An event raised counts once. -/
def PendingEntry.Counted (e : PendingEntry) : Prop := 1 ≤ e.repeatCount ∧ e.repeatCount ≤ 255

theorem counted_eventOf (cls : EventClass) (sub : Subject) (hi lo : Byte) (s : State) :
    (s.eventOf cls sub hi lo).Counted :=
  ⟨le_rfl, Nat.le_add_left 1 254⟩

theorem sameKey_of_key {a b x y : PendingEntry} (ha : a.cls = x.cls ∧ a.subject = x.subject)
    (hb : b.cls = y.cls ∧ b.subject = y.subject) : a.sameKey b = x.sameKey y := by
  simp only [PendingEntry.sameKey, ha.1, ha.2, hb.1, hb.2]

theorem law_take {n : NotifyUnit} {ev : PendingEntry} (hn : n.Law) (hev : ev.Counted) : (n.take ev).Law := by
  obtain ⟨hocc, hlen, hcons, hkeys, hlost, hrepeat, hrest⟩ := hn
  rcases take_cases n ev with ⟨-, h⟩ | ⟨hnew, hroom, h⟩ | ⟨-, -, h⟩ <;> rw [h]
  · refine ⟨by simpa [NotifyUnit.occupancy] using hocc, hlen, hcons, ?_, hlost, ?_, hrest⟩
    · have hkey (e : PendingEntry) : (if e.sameKey ev then e.coalesce ev else e).cls = e.cls ∧
          (if e.sameKey ev then e.coalesce ev else e).subject = e.subject := by split <;> exact ⟨rfl, rfl⟩
      refine List.pairwise_map.mpr (hkeys.imp fun {x y} hxy => ?_)
      rw [sameKey_of_key (hkey x) (hkey y), hxy]
    · simp only [List.forall_mem_map]
      intro e he
      split
      · simp only [PendingEntry.coalesce]
        omega
      · exact hrepeat e he
  · refine ⟨?_, hlen, hcons, ?_, hlost, ?_, hrest⟩
    · simp only [NotifyUnit.occupancy, List.length_append, List.length_singleton] at hroom ⊢
      omega
    · refine List.pairwise_append.mpr ⟨hkeys, List.pairwise_singleton .., fun x hx y hy => ?_⟩
      rw [List.mem_singleton.mp hy]
      exact hnew x hx
    · intro e he
      rcases List.mem_append.mp he with he | he
      · exact hrepeat e he
      · rw [List.mem_singleton.mp he]
        exact hev
  · exact ⟨hocc, hlen, hcons, hkeys, by dsimp only; omega, hrepeat, hrest⟩

theorem law_takeAll {n : NotifyUnit} {evs : List PendingEntry} (hn : n.Law) (hevs : ∀ ev ∈ evs, ev.Counted) :
    (n.takeAll evs).Law := by
  unfold NotifyUnit.takeAll
  induction evs generalizing n with
  | nil => exact hn
  | cons ev evs ih =>
    refine ih ?_ fun e he => hevs e (List.mem_cons_of_mem _ he)
    dsimp only
    split
    · exact law_take hn (hevs ev List.mem_cons_self)
    · exact hn

theorem law_raise {n : NotifyUnit} (hn : n.Law) (cls : EventClass) (sub : Subject) (hi lo : Byte) (s : State) :
    (n.takeAll [s.eventOf cls sub hi lo]).Law :=
  law_takeAll hn fun ev hev => by rw [List.mem_singleton.mp hev]; exact counted_eventOf ..

/-- The next number continues a consecutive queue. -/
theorem consecutive_append {next : Byte} {l : List SentEntry} {x : SentEntry} (h : consecutive next l = true)
    (hx : x.sequence = next) : consecutive (next + 1) (l ++ [x]) = true := by
  induction l with
  | nil => simp [consecutive, hx]
  | cons e l ih =>
    simp only [consecutive, Bool.and_eq_true, beq_iff_eq, List.cons_append] at h ⊢
    refine ⟨?_, ih h.2⟩
    have hsum : BitVec.ofNat 8 ((l ++ [x]).length + 1) = BitVec.ofNat 8 (l.length + 1) + 1 := by
      rw [List.length_append, List.length_singleton]
      exact BitVec.ofNat_add ..
    rw [hsum, ← BitVec.add_assoc, h.1]

/-- An offer of a first transmission is a pending entry, with room among the unacknowledged ones (R159). -/
theorem pending_of_offer {n : NotifyUnit} {e : PendingEntry} (h : n.offer = some (.first e)) :
    e ∈ n.pending ∧ n.sent.length < 8 := by
  have hdue (p : Priority) : n.dueEntry p ≠ some (.first e) := by simp [NotifyUnit.dueEntry]
  have hpending (p : Priority) (hp : n.pendingEntry p = some (.first e)) : e ∈ n.pending ∧ n.sent.length < 8 := by
    simp only [NotifyUnit.pendingEntry, Option.ite_none_right_eq_some, Option.map_eq_some_iff] at hp
    obtain ⟨hroom, x, hx, hxe⟩ := hp
    exact ⟨Offer.first.inj hxe ▸ List.mem_of_find?_eq_some hx, hroom⟩
  unfold NotifyUnit.offer at h
  split at h
  · cases h
  simp only [Option.or_eq_some_iff] at h
  rcases h with h | ⟨-, h | ⟨-, h⟩⟩
  · exact absurd h (hdue _)
  · exact hpending _ h
  · split at h
    · cases h
    · simp only [Option.or_eq_some_iff] at h
      rcases h with h | ⟨-, h⟩
      · exact absurd h (hdue _)
      · exact hpending _ h

theorem law_begin {n : NotifyUnit} {o : Offer} (hn : n.Law) (ho : n.offer = some o) : (n.begin o).Law := by
  obtain ⟨hocc, hlen, hcons, hkeys, hlost, hrepeat, hcount, htimers, hrest⟩ := id hn
  cases o with
  | first e =>
    obtain ⟨hmem, hroom⟩ := pending_of_offer ho
    refine ⟨?_, ?_, consecutive_append hcons rfl, hkeys.sublist List.erase_sublist, Nat.zero_le _,
      fun x hx => hrepeat x (List.mem_of_mem_erase hx), ?_, ?_, hrest⟩
    · have hpos := List.length_pos_of_mem hmem
      simp only [NotifyUnit.occupancy, NotifyUnit.begin, List.length_append, List.length_singleton,
        List.length_erase_of_mem hmem] at hocc ⊢
      omega
    · simp only [NotifyUnit.begin, List.length_append, List.length_singleton]
      omega
    · intro x hx
      rcases List.mem_append.mp hx with hx | hx
      · exact hcount x hx
      · rw [List.mem_singleton.mp hx]
        exact Nat.zero_le _
    · intro hs x hx
      rcases List.mem_append.mp hx with hx | hx
      · exact htimers hs x hx
      · rw [List.mem_singleton.mp hx]
        rfl
  | again e =>
    refine (NotifyMove.mapSent (c := .headerFault) (n := n) (f := fun x =>
      if x.sequence = e.sequence then { x with due := false, inTransmission := true } else x) ?_ ?_ ?_).lawful hn
    · intro x; split <;> rfl
    · intro _ x hx; split <;> exact hcount x hx
    · intro _ x hx; split <;> exact hx

/-- A notification that a port begins is the one on offer (R122, R161). -/
theorem offer_of_sendsNext {p : Fin 4} {o : Offer} (h : s.sendsNext p = some (.notification o)) :
    s.notify.offer = some o := by
  unfold State.sendsNext nextSource at h
  split at h
  · split at h
    · exact arbiterChoice_source h
    · simp at h
  · cases h

theorem law_notifyAfter (hs : s.notify.Law) (p : Fin 4) : (s.notifyAfter p).Law := by
  unfold State.notifyAfter
  split
  · rename_i o ho; exact law_begin hs (offer_of_sendsNext ho)
  · exact hs

theorem law_complete {n : NotifyUnit} (hn : n.Law) : n.complete.Law := by
  obtain ⟨-, -, -, -, -, -, hcount, -⟩ := id hn
  refine (NotifyMove.mapSent (c := .headerFault) (n := n) (f := fun e => if e.inTransmission then
    { e with inTransmission := false, retryTimer := if n.silent then e.retryTimer else .running n.retryInterval }
    else e) ?_ ?_ ?_).lawful hn
  · intro x; split <;> rfl
  · intro _ x hx; split <;> exact hcount x hx
  · intro hs x hx
    split
    · exact hx
    · exact hx

theorem law_completed {n : NotifyUnit} (hn : n.Law) (x : Transmission) : (n.completed x).Law := by
  unfold NotifyUnit.completed
  split
  · exact hn
  · split
    · exact law_complete hn
    · exact hn

theorem WindowAct.notifyLaw (hs : s.notify.Law) (h : WindowAct s u) : u.notify.Law := by
  cases h with
  | event cls sub hi lo => rw [raiseEvent_eq]; exact law_raise hs ..
  | settle =>
    have hnotify : (Machine.settle s).notify = s.notifyAfter s.mgmt := (stepEnds_settle s).notify
    rw [hnotify]
    exact law_notifyAfter hs _
  | endWindow code i =>
    rw [(windowsEnd_endWindow code i s).notify]
    refine law_takeAll hs fun ev hev => ?_
    obtain ⟨x, -, rfl⟩ := List.mem_map.mp hev
    exact ⟨le_rfl, Nat.le_add_left 1 254⟩
  | mark i f =>
    unfold updateContext
    split <;> exact hs
  | countDrop | countHoldOff | rearm => exact hs
  | store i x k ids r v _ _ hclaim => rw [stored_eq r hclaim]; exact hs
  | askOpening i =>
    unfold Machine.askOpening
    dsimp only
    split
    · split
      · rw [refuseOpening_eq]; exact law_raise hs ..
      · split
        · exact hs
        · rw [refuseOpening_eq]; exact law_raise hs ..
    · exact hs

theorem law_endRecoveryIfDone (p : Fin 4) (hs : s.notify.Law) : (endRecoveryIfDone p s).notify.Law := by
  rcases endRecoveryIfDone_cases p s with ⟨-, h⟩ | ⟨-, h⟩
  · have hafter : ((s.resting p).notifyAfter p).Law := law_notifyAfter (s := s.resting p) hs p
    rw [h, endRecovery_state]
    dsimp only
    split
    · exact law_raise hafter ..
    · exact hafter
  · rw [h]; exact hs

theorem PortEvent.notifyLaw {e : RowEvent} (hs : s.notify.Law) (h : PortEvent e s u) : u.notify.Law := by
  cases h with
  | rise | fall => exact hs
  | recover p => exact law_endRecoveryIfDone (s := s.setPort p _) p hs
  | stall p =>
    obtain ⟨slots, ports, hrest⟩ := stalledPart_rest p s
    rw [hrest, reportStall_eq]
    exact law_raise hs ..
  | stallAgain p => rw [reportStall_eq]; exact law_raise hs ..
  | complete p x =>
    have hcompleted : (completedPart p x s).notify.Law := law_completed hs x
    generalize completedPart p x s = v at hcompleted ⊢
    unfold nextState
    split
    · exact hcompleted
    · exact law_endRecoveryIfDone p hcompleted
    · exact hcompleted

theorem law_wake {n : NotifyUnit} (hn : n.Law) :
    ({ n with silent := false, sent := n.sent.map (·.wake n.retryInterval) } : NotifyUnit).Law := by
  obtain ⟨hocc, hlen, hcons, hkeys, hlost, hrepeat, -, -, hrest⟩ := hn
  refine ⟨by simpa [NotifyUnit.occupancy] using hocc, by simpa using hlen, ?_, hkeys, hlost, hrepeat, ?_, nofun, hrest⟩
  · exact (consecutive_map (f := (·.wake n.retryInterval)) (fun _ => rfl) ..).trans hcons
  · simp only [List.forall_mem_map]
    exact fun _ _ => Nat.zero_le _

theorem law_enterSilent {n : NotifyUnit} (hn : n.Law) :
    ({ n with silent := true, sent := n.sent.map fun e => { e with retryTimer := .stopped } } : NotifyUnit).Law := by
  obtain ⟨hocc, hlen, hcons, hkeys, hlost, hrepeat, hcount, -, hrest⟩ := hn
  refine ⟨by simpa [NotifyUnit.occupancy] using hocc, by simpa using hlen, ?_, hkeys, hlost, hrepeat, ?_, ?_, hrest⟩
  · exact (consecutive_map (f := fun e => { e with retryTimer := .stopped }) (fun _ => rfl) ..).trans hcons
  · simp only [List.forall_mem_map]
    exact hcount
  · intro _ e he
    obtain ⟨x, -, rfl⟩ := List.mem_map.mp he
    rfl

/-- The queue of a RESTART holds RESTARTED alone (R169). -/
theorem law_notifyRestarted (hs : s.notify.Law) : s.notifyRestarted.Law := by
  obtain ⟨-, -, -, -, -, -, -, -, hrest⟩ := hs
  refine ⟨Nat.le_add_left 1 31, Nat.zero_le _, rfl, List.pairwise_singleton .., Nat.zero_le _, fun e he => ?_, nofun, nofun, hrest⟩
  rw [List.mem_singleton.mp he]
  exact counted_eventOf ..

theorem law_reset : NotifyUnit.reset.Law := by decide

theorem act_notifyLaw (hs : s.notify.Law) (h : Act c s u) : u.notify.Law := by
  cases h with
  | window h => exact h.notifyLaw hs
  | receiver | respond | line | clearSlot | clearPort => exact hs
  | startFrame depth payload r =>
    generalize hv : s.setReceiver (r.startFrame depth payload) = v
    have hlaw : v.notify.Law := by rw [← hv]; exact hs
    cases hb : v.pendingBank with
    | none => rw [switchBank_none hb]; exact hlaw
    | some b =>
      rw [switchBank_some hb, raiseEvent_eq, changeSlots_rest]
      exact law_raise hlaw ..
  | event e _ _ _ hp heffect => exact (portEvent_of_eventEffect hp heffect).notifyLaw hs
  | restart =>
    obtain ⟨order, slots, ports, -, hrest⟩ := restartPart_rest s
    rw [hrest]
    refine law_takeAll (law_notifyRestarted hs) fun ev hev => ?_
    obtain ⟨p, -, rfl⟩ := List.mem_map.mp hev
    exact counted_eventOf ..
  | leaveSilent =>
    rw [leaveSilent_eq]
    dsimp only
    split
    · exact law_wake hs
    · exact hs
  | enterSilent => exact law_enterSilent hs
  | notify n _ h => exact h.lawful hs
  | writeEntry b i e =>
    obtain ⟨banks, slots, hrest⟩ := writeEntry_rest b i e s
    rw [hrest]
    exact hs
  | selectBank b =>
    obtain ⟨pending, hrest⟩ := selectBank_rest b s
    rw [hrest]
    exact hs
  | setPort a =>
    obtain ⟨ports, hrest⟩ := setPort_rest a s
    rw [hrest]
    exact hs
  | hardReset m1 m0 =>
    obtain ⟨ports, lines, -, -, hrest⟩ := hardReset_rest m1 m0 s
    rw [hrest]
    exact law_reset

/-! ### The response places (R142) -/

theorem outstanding_eq (s : State) :
    s.outstanding = responseInTransmission (s.port s.mgmt).transmission ++ s.responses := rfl

theorem outstanding_setPort {p : Fin 4} {q : Port} {s : State} (hq : q.transmission = (s.port p).transmission) :
    (s.setPort p q).outstanding = s.outstanding :=
  outstanding_congr rfl rfl fun r => setPort_field (·.transmission) hq r

/-- A response that begins keeps its place (R142). -/
theorem outstanding_sending (s : State) :
    responseInTransmission (s.portSending s.mgmt).transmission ++ s.responsesAfter s.mgmt = s.outstanding := by
  have hends := stepEnds_settle s
  rw [← hends.outstanding, outstanding_eq (settle s), hends.mgmt, hends.port s.mgmt, hends.responses]
  rfl

theorem endRecovery_outstanding (p : Fin 4) (s : State) : (endRecovery p s).outstanding = s.outstanding := by
  have hresting : (s.resting p).outstanding = s.outstanding :=
    outstanding_setPort rfl
  have hport := endRecovery_port p s.mgmt s
  rw [outstanding_eq]
  rw [show (endRecovery p s).mgmt = s.mgmt by rw [endRecovery_state]; rfl, hport,
    show (endRecovery p s).responses = (s.resting p).responsesAfter p by rw [endRecovery_state]]
  by_cases hp : p = s.mgmt
  · subst hp
    rw [if_pos rfl, ← hresting]
    exact outstanding_sending (s.resting s.mgmt)
  · rw [if_neg fun h => hp h.symm, (sendsNext_ne_mgmt (u := s.resting p) hp).1]
    rfl

theorem endRecoveryIfDone_outstanding (p : Fin 4) (s : State) :
    (endRecoveryIfDone p s).outstanding = s.outstanding := by
  rcases endRecoveryIfDone_cases p s with ⟨-, h⟩ | ⟨-, h⟩
  · rw [h, endRecovery_outstanding]
  · rw [h]

theorem nextState_outstanding (p : Fin 4) (s : State) : (nextState p s).outstanding = s.outstanding := by
  unfold nextState
  split
  · exact outstanding_setPort rfl
  · exact endRecoveryIfDone_outstanding p s
  · rfl

theorem reportStall_outstanding (p : Fin 4) (s : State) : (reportStall p s).outstanding = s.outstanding := by
  rw [reportStall_eq]
  exact outstanding_congr rfl rfl fun r => setPort_field (q := { s.port p with stallOutstanding := true })
    (·.transmission) rfl r

/-- An event of a port occupies no response place; a completed response frees its own (R142). -/
theorem PortEvent.outstanding {e : RowEvent} (h : PortEvent e s u) : u.outstanding.length ≤ s.outstanding.length := by
  cases h with
  | rise p =>
    rw [outstanding_setPort]
    unfold Port.rise
    split <;> rfl
  | fall p =>
    rw [outstanding_setPort]
    rw [Port.fall_eq]
  | recover p =>
    rw [endRecoveryIfDone_outstanding, outstanding_setPort]
    rfl
  | stall p =>
    obtain ⟨slots, ports, hrest⟩ := stalledPart_rest p s
    rw [reportStall_outstanding]
    refine (congrArg List.length (outstanding_congr (by rw [hrest]) (by rw [hrest]) fun r => ?_)).le
    rw [stalledPart_port]
    split
    · rename_i hr; subst hr; rfl
    · rfl
  | stallAgain p =>
    rw [reportStall_outstanding, outstanding_setPort]
    rfl
  | complete p x =>
    have hport := completedPart_port p s.mgmt x s
    rw [nextState_outstanding, outstanding_eq, outstanding_eq s]
    change (responseInTransmission ((completedPart p x s).port s.mgmt).transmission ++ s.responses).length ≤ _
    rw [hport]
    split
    · rw [(completed_kept ..).2.2.1]
      exact (List.sublist_append_right ..).length_le
    · exact le_rfl

/-! ### The fault line (R134) -/

/-- The fault line's conditions are what the notification unit and the management port hold. -/
structure State.FaultAgrees (s : State) : Prop where
  silent : s.fault.silent = s.notify.silent
  trouble : s.fault.portTrouble = (s.port s.mgmt).stallOutstanding

theorem faultLaw_iff (s : State) : s.FaultLaw ↔ s.FaultAgrees :=
  ⟨fun ⟨hsilent, htrouble⟩ => ⟨hsilent, htrouble⟩, fun h => ⟨h.silent, h.trouble⟩⟩

theorem faultAgrees_congr (hfault : u.fault = s.fault) (hsilent : u.notify.silent = s.notify.silent)
    (hmgmt : u.mgmt = s.mgmt) (hstall : (u.port s.mgmt).stallOutstanding = (s.port s.mgmt).stallOutstanding)
    (h : s.FaultAgrees) : u.FaultAgrees :=
  ⟨by rw [hfault, hsilent, h.silent], by rw [hfault, hmgmt, hstall, h.trouble]⟩

/-- A report of port p's trouble, or of its end, on the fault line, while the port's own mark says the same. -/
theorem faultAgrees_report {p : Fin 4} {b : Bool} (hs : s.FaultAgrees) (hmgmt : u.mgmt = s.mgmt)
    (hsilent : u.notify.silent = s.notify.silent)
    (hfault : u.fault = if p = s.mgmt then { s.fault with portTrouble := b } else s.fault)
    (hport : (u.port p).stallOutstanding = b)
    (hother : ∀ r, r ≠ p → (u.port r).stallOutstanding = (s.port r).stallOutstanding) : u.FaultAgrees := by
  constructor
  · rw [hfault, hsilent, ← hs.silent]
    split <;> rfl
  · rw [hfault, hmgmt]
    split
    · rename_i hp; rw [← hp, hport]
    · rename_i hp; rw [hother _ fun h => hp h.symm]; exact hs.trouble

/-- A port rewritten with its stall mark kept. -/
theorem faultAgrees_setPort {p : Fin 4} {q : Port} (hq : q.stallOutstanding = (s.port p).stallOutstanding)
    (hs : s.FaultAgrees) : (s.setPort p q).FaultAgrees :=
  faultAgrees_congr (s := s) rfl rfl rfl (setPort_field (·.stallOutstanding) hq s.mgmt) hs

theorem faultAgrees_reportStall (p : Fin 4) (hs : s.FaultAgrees) : (reportStall p s).FaultAgrees := by
  have hmoves := portMoves_reportStall p s
  have hport : ∀ r, (reportStall p s).port r = if r = p then { s.port p with stallOutstanding := true } else s.port r :=
    fun r => by rw [reportStall_eq]; exact port_setPort ..
  refine faultAgrees_report (p := p) (b := true) hs hmoves.mgmt hmoves.silent (by rw [reportStall_eq]) ?_ fun r hr => ?_
  · rw [hport, if_pos rfl]
  · rw [hport, if_neg hr]

theorem faultAgrees_endRecoveryIfDone (p : Fin 4) (hs : s.FaultAgrees) : (endRecoveryIfDone p s).FaultAgrees := by
  rcases endRecoveryIfDone_cases p s with ⟨-, h⟩ | ⟨-, h⟩
  · have hmoves := portMoves_endRecovery p s
    rw [h]
    refine faultAgrees_report (p := p) (b := false) hs hmoves.mgmt hmoves.silent (by rw [endRecovery_state]) ?_
      fun r hr => ?_
    · rw [endRecovery_port, if_pos rfl]
      rfl
    · rw [endRecovery_port, if_neg hr]
  · rw [h]; exact hs

theorem faultAgrees_nextState (p : Fin 4) (hs : s.FaultAgrees) : (nextState p s).FaultAgrees := by
  unfold nextState
  split
  · exact faultAgrees_setPort rfl hs
  · exact faultAgrees_endRecoveryIfDone p hs
  · exact hs

/-- Each event of a port that moves the stall mark of the management port reports it to the fault line (R134). -/
theorem PortEvent.faultAgrees {e : RowEvent} (hs : s.FaultAgrees) (h : PortEvent e s u) : u.FaultAgrees := by
  cases h with
  | rise p =>
    refine faultAgrees_setPort ?_ hs
    unfold Port.rise
    split <;> rfl
  | fall p =>
    refine faultAgrees_setPort ?_ hs
    rw [Port.fall_eq]
  | recover p =>
    have hrisen : (s.setPort p { s.port p with ready := true, state := .recovering }).FaultAgrees :=
      faultAgrees_setPort rfl hs
    exact faultAgrees_endRecoveryIfDone p hrisen
  | stall p =>
    refine faultAgrees_reportStall p ?_
    have hmoves := portMoves_stalledPart p s
    obtain ⟨slots, ports, hrest⟩ := stalledPart_rest p s
    refine faultAgrees_congr (by rw [hrest]) hmoves.silent hmoves.mgmt ?_ hs
    rw [stalledPart_port]
    split
    · rename_i hp; rw [hp]
    · rfl
  | stallAgain p =>
    have hstalled : (s.setPort p (s.port p).stall).FaultAgrees := faultAgrees_setPort rfl hs
    exact faultAgrees_reportStall p hstalled
  | complete p x =>
    refine faultAgrees_nextState p ?_
    have hmoves := partMoves_completedPart p x s
    refine faultAgrees_congr (by rfl) hmoves.silent hmoves.mgmt ?_ hs
    rw [completedPart_port]
    split
    · rename_i hp; rw [hp]; exact (completed_kept ..).2.2.2
    · rfl

/-- The response places are within their bound, and the fault line agrees. -/
structure State.Answerable (s : State) : Prop where
  places : s.outstanding.length ≤ 16
  fault : s.FaultAgrees

theorem answerable_iff (s : State) : s.Answerable ↔ s.ResponseLaw ∧ s.FaultLaw :=
  ⟨fun h => ⟨h.places, (faultLaw_iff s).mpr h.fault⟩, fun ⟨hplaces, hfault⟩ => ⟨hplaces, (faultLaw_iff s).mp hfault⟩⟩

/-- A management port is never disabled, so that SET_PORT leaves its stall mark (R119). -/
theorem setPort_faultAgrees (a : PortSettings) (hs : s.FaultAgrees) : (setPort a s).1.FaultAgrees := by
  unfold setPort
  split
  · exact hs
  · rename_i hmgmt
    split
    · exact hs
    · refine faultAgrees_congr (s := s) (by rfl) (by rfl) (by rfl) ?_ hs
      dsimp only
      rw [port_setPort]
      split
      · rename_i hp
        have henable : a.enable = true := by
          by_contra hoff
          exact hmgmt ⟨Bool.eq_false_iff.mpr hoff, hp.symm⟩
        rw [hp, Port.applySettings]
        simp only [henable, if_true]
      · rfl

/-- A hard reset leaves no response place occupied: a response that goes on was begun before it (R144). -/
theorem hardReset_outstanding (m1 m0 : Bool) (s : State) : (hardReset m1 m0 s).outstanding = [] := by
  obtain ⟨ports, lines, hports, -, hrest⟩ := hardReset_rest m1 m0 s
  rw [hrest, outstanding_eq]
  change responseInTransmission ports[managementPort m1 m0].transmission ++ [] = []
  rw [hports, List.append_nil]
  unfold Port.hardReset
  cases (s.port (managementPort m1 m0)).transmission with
  | none => rfl
  | some x => obtain ⟨line, stale⟩ := x; cases line <;> rfl

theorem responseInTransmission_length (t : Option Transmission) : (responseInTransmission t).length ≤ 1 := by
  unfold responseInTransmission
  split
  · exact le_rfl
  · exact Nat.zero_le _

theorem act_answerable (hs : s.Answerable) (h : Act c s u) : u.Answerable := by
  obtain ⟨hplaces, hfault⟩ := id hs
  cases h with
  | window h =>
    exact ⟨by rw [h.keeps.outstanding]; exact hplaces, faultAgrees_congr h.keeps.moves.fault h.keeps.silent
      h.keeps.moves.mgmt (h.keeps.port _).stallOutstanding hfault⟩
  | receiver | line | clearSlot => exact ⟨hplaces, hfault.silent, hfault.trouble⟩
  | notify n _ h => exact ⟨hplaces, h.silent ▸ hfault.silent, hfault.trouble⟩
  | clearPort p =>
    refine ⟨?_, faultAgrees_setPort rfl hfault⟩
    rw [Machine.clearPort, outstanding_setPort]
    · exact hplaces
    · rfl
  | startFrame depth payload r =>
    obtain ⟨slots, notify, hrest, -, hsilent, -⟩ := switchBank_rest (s.setReceiver (r.startFrame depth payload))
    rw [hrest]
    exact ⟨hplaces, hfault.silent.trans hsilent.symm, hfault.trouble⟩
  | event e _ _ _ hp heffect =>
    have hevent := portEvent_of_eventEffect hp heffect
    exact ⟨hevent.outstanding.trans hplaces, hevent.faultAgrees hfault⟩
  | restart =>
    have hports := restartPart_port s
    refine ⟨?_, ?_⟩
    · rw [restartPart_outstanding]
      exact (responseInTransmission_length _).trans (Nat.le_add_left 1 15)
    · obtain ⟨order, slots, ports, -, hrest⟩ := restartPart_rest s
      obtain ⟨-, -, -, -, -, hsilent⟩ := takeAll_kept s.notifyRestarted (s.recoveredEvents order)
      have hmark : ((restartPart s).1.port s.mgmt).stallOutstanding =
          if (s.port s.mgmt).leavesStall then false else (s.port s.mgmt).stallOutstanding := by rw [hports]; rfl
      rw [hrest] at hmark ⊢
      refine ⟨hsilent.symm, ?_⟩
      rw [hmark, ← hfault.trouble]
  | respond r _ hroom =>
    refine ⟨?_, hfault.silent, hfault.trouble⟩
    have hplaced : (placeResponse r s).outstanding = s.outstanding ++ [r] := (List.append_assoc ..).symm
    rw [hplaced, List.length_append, List.length_singleton]
    exact hroom
  | leaveSilent =>
    rw [leaveSilent_eq]
    refine ⟨hplaces, ?_, ?_⟩
    · dsimp only
      cases hsilent : s.notify.silent with
      | true => rfl
      | false => rw [if_neg Bool.false_ne_true, if_neg Bool.false_ne_true, hfault.silent]
    · dsimp only
      refine Eq.trans ?_ hfault.trouble
      split <;> rfl
  | enterSilent => exact ⟨hplaces, rfl, hfault.trouble⟩
  | writeEntry b i e =>
    obtain ⟨banks, slots, hrest⟩ := writeEntry_rest b i e s
    rw [hrest]
    exact ⟨hplaces, hfault.silent, hfault.trouble⟩
  | selectBank b =>
    obtain ⟨pending, hrest⟩ := selectBank_rest b s
    rw [hrest]
    exact ⟨hplaces, hfault.silent, hfault.trouble⟩
  | setPort a => exact ⟨by rw [setPort_outstanding]; exact hplaces, setPort_faultAgrees a hfault⟩
  | hardReset m1 m0 =>
    refine ⟨by rw [hardReset_outstanding]; exact Nat.zero_le _, ?_⟩
    obtain ⟨ports, lines, hports, -, hrest⟩ := hardReset_rest m1 m0 s
    rw [hrest]
    refine ⟨rfl, ?_⟩
    change false = ports[managementPort m1 m0].stallOutstanding
    rw [hports]
    rfl

end Sys2Proof.Machine
end

section
/-! The statements about the notification queue, the response places and the fault line, settled. -/

namespace Sys2Proof.Machine

/-- Settles O14: raising, beginning, completing and acknowledging keep the queue's law. -/
theorem everyStepKeepsTheNotificationQueue : Obligations.EveryStepKeepsTheNotificationQueue :=
  fun _ _ hs h => step_keeps (P := fun v => v.notify.Law) (fun _ _ _ => act_notifyLaw) (fun _ _ hv => hv) hs h

/-- Settles O13: only the placing of a response fills a place, and it finds one free; every move of a mark or of
MANAGEMENT_SILENT is reported. -/
theorem everyStepKeepsResponsesAndFaultLine : Obligations.EveryStepKeepsResponsesAndFaultLine :=
  fun s t hs h => (answerable_iff t).mp
    (step_keeps (P := State.Answerable) (fun _ _ _ => act_answerable)
      (fun _ _ hv => ⟨hv.places, hv.fault.silent, hv.fault.trouble⟩) ((answerable_iff s).mpr hs) h)

end Sys2Proof.Machine
end

section
/-! SUPPORT. The law of the line store, act by act: where each block number goes is counted, block number by block number. -/

namespace Sys2Proof.Machine

variable {c : Instr} {s u : State}

/-! ### The blocks that a port holds -/

/-- The numbers of the blocks that records hold. -/
def blocksOf (records : List Record) : List Nat := records.flatMap fun r => r.blocks.map (·.id)

/-- The numbers of the blocks of the line in transmission. -/
def Port.sentBlocks (q : Port) : List Nat := blocksOf q.departing

theorem heldBlocks_eq (q : Port) : q.heldBlocks = q.sentBlocks ++ q.waitingBlocks := List.flatMap_append ..

theorem sentBlocks_of_none {q : Port} (h : q.transmission = none) : q.sentBlocks = [] := by
  simp [Port.sentBlocks, Port.departing, h, blocksOf]

theorem sentBlocks_of_line {q : Port} {x : Transmission} (h : q.transmission = some x) :
    q.sentBlocks = x.line.blockIds := by
  obtain ⟨line, stale⟩ := x
  unfold Port.sentBlocks Port.departing
  rw [h]
  cases line <;> simp [blocksOf, EgressLine.blockIds]

/-- A port whose queue has records more at its tail, its line as it was. -/
theorem heldBlocks_append {q r : Port} {records : List Record} (hline : r.transmission = q.transmission)
    (hqueue : r.queue = q.queue ++ records) : r.heldBlocks = q.heldBlocks ++ blocksOf records := by
  simp only [heldBlocks_eq, Port.sentBlocks, Port.departing, Port.waitingBlocks, blocksOf, hline, hqueue,
    List.flatMap_append, List.append_assoc]

/-! ### The law, counted -/

/-- Each block number stands once, on the free list or with a port, and each port's holding counts its blocks. -/
structure State.Stocked (s : State) : Prop where
  once : ∀ a, s.freeList.count a + ∑ p, (s.port p).heldBlocks.count a = allBlocks.count a
  holding : ∀ p, (s.port p).holding = (s.port p).heldBlocks.length

theorem count_allHeld (s : State) (a : Nat) : s.allHeld.count a = ∑ p, (s.port p).heldBlocks.count a := by
  rw [State.allHeld, List.count_flatMap, Fin.sum_univ_def]
  rfl

theorem stocked_iff (s : State) : s.Stocked ↔ s.StoreLaw := by
  constructor
  · rintro ⟨honce, hholding⟩
    refine ⟨List.perm_iff_count.mpr fun a => ?_, hholding⟩
    rw [List.count_append, count_allHeld, honce]
  · rintro ⟨hperm, hholding⟩
    refine ⟨fun a => ?_, hholding⟩
    rw [← count_allHeld, ← List.count_append]
    exact hperm.count_eq a

/-- Where the free list and each port's blocks are as they were. -/
theorem stocked_congr (hfree : u.freeList = s.freeList) (hheld : ∀ p, (u.port p).heldBlocks = (s.port p).heldBlocks)
    (hholding : ∀ p, (u.port p).holding = (s.port p).holding) (hs : s.Stocked) : u.Stocked := by
  refine ⟨fun a => ?_, fun p => by rw [hholding, hheld]; exact hs.holding p⟩
  rw [hfree, ← hs.once a]
  simp only [hheld]

/-- Where blocks move between the free list and one port. -/
theorem stocked_exchange {p : Fin 4} {q : Port} (hport : ∀ r, u.port r = if r = p then q else s.port r)
    (hmoved : ∀ a, u.freeList.count a + q.heldBlocks.count a = s.freeList.count a + (s.port p).heldBlocks.count a)
    (hholding : q.holding = q.heldBlocks.length) (hs : s.Stocked) : u.Stocked := by
  refine ⟨fun a => ?_, fun r => ?_⟩
  · have honce := hs.once a
    have hmoved := hmoved a
    rw [← Finset.add_sum_erase _ _ (Finset.mem_univ p)] at honce ⊢
    have hrest : ∑ r ∈ Finset.univ.erase p, (u.port r).heldBlocks.count a =
        ∑ r ∈ Finset.univ.erase p, (s.port r).heldBlocks.count a :=
      Finset.sum_congr rfl fun r hr => by rw [hport, if_neg (Finset.ne_of_mem_erase hr)]
    rw [hrest, hport, if_pos rfl]
    omega
  · rw [hport]
    split
    · exact hholding
    · exact hs.holding r

/-- Where every waiting record is flushed to the free list and the lines in transmission go on. -/
theorem stocked_flush (hfree : u.freeList = s.freeList ++ allPorts.flatMap fun p => (s.port p).waitingBlocks)
    (hheld : ∀ p, (u.port p).heldBlocks = (s.port p).sentBlocks)
    (hholding : ∀ p, (u.port p).holding = (s.port p).sentBlocks.length) (hs : s.Stocked) : u.Stocked := by
  refine ⟨fun a => ?_, fun p => by rw [hholding, hheld]⟩
  have hwaiting : (allPorts.flatMap fun p => (s.port p).waitingBlocks).count a =
      ∑ p, (s.port p).waitingBlocks.count a := by
    rw [List.count_flatMap, Fin.sum_univ_def]
    rfl
  rw [← hs.once a, hfree, List.count_append, hwaiting, add_assoc, ← Finset.sum_add_distrib]
  congr 1
  refine Finset.sum_congr rfl fun p _ => ?_
  rw [hheld, heldBlocks_eq, List.count_append, add_comm]

/-! ### The acts -/

theorem blocksOf_closesOn (code : CompletionCode) (ends : List (Fin 16 × WindowContext)) (p : Fin 4) :
    blocksOf (closesOn code ends p) = [] := by
  unfold blocksOf closesOn
  rw [List.flatMap_map]
  exact List.flatMap_eq_nil_iff.mpr fun x _ => rfl

theorem WindowAct.stocked (hs : s.Stocked) (h : WindowAct s u) : u.Stocked := by
  cases h with
  | event cls sub hi lo => rw [raiseEvent_eq]; exact ⟨hs.once, hs.holding⟩
  | settle =>
    have hends := stepEnds_settle s
    refine stocked_congr hends.freeList (fun p => ?_) (fun p => ?_) hs
    · unfold Port.heldBlocks; rw [hends.departures]
    · obtain ⟨-, -, hholding, -⟩ := portSending_kept s p
      rw [hends.port p]
      exact hholding
  | endWindow code i =>
    have hends := windowsEnd_endWindow code i s
    refine stocked_congr (by rw [hends.rest]) (fun p => ?_) (fun p => by rw [hends.port]) hs
    rw [heldBlocks_append (q := s.port p) (by rw [hends.port]) (by rw [hends.port]), blocksOf_closesOn, List.append_nil]
  | mark i f =>
    unfold updateContext
    split
    · exact ⟨hs.once, hs.holding⟩
    · exact hs
  | countDrop p =>
    refine stocked_congr (s := s) rfl (fun r => ?_) (setPort_field (·.holding) rfl) hs
    exact setPort_field (q := { s.port p with rowsDropped := satInc (s.port p).rowsDropped }) (·.heldBlocks) rfl r
  | store i x k ids r v _ _ hclaim hblocks =>
    obtain ⟨⟨-, hgrant⟩, hids, -⟩ := claim_ok hclaim
    have hheld : ({ s.port x.port with
        holding := (s.port x.port).holding + k, queue := (s.port x.port).queue ++ [r] } : Port).heldBlocks =
        (s.port x.port).heldBlocks ++ ids := by
      refine (heldBlocks_append (q := s.port x.port) (records := [r]) (by rfl) (by rfl)).trans ?_
      simp only [blocksOf, List.flatMap_cons, List.flatMap_nil, List.append_nil, hblocks]
    rw [stored_eq r hclaim]
    refine stocked_exchange (p := x.port) (fun r => port_setPort ..) (fun a => ?_) ?_ hs
    · rw [hheld, List.count_append, hids]
      have hsplit := congrArg (List.count a) (List.take_append_drop k s.freeList)
      rw [List.count_append] at hsplit
      dsimp only
      omega
    · rw [hheld, List.length_append, hids, List.length_take, ← hs.holding]
      dsimp only
      omega
  | countHoldOff i => exact ⟨hs.once, hs.holding⟩
  | askOpening i =>
    unfold Machine.askOpening
    dsimp only
    split
    · split
      · rw [refuseOpening_eq]; exact ⟨hs.once, hs.holding⟩
      · split
        · have hheld (r : Record) (n : Nat) (hr : r.blocks = []) : ({ s.port (s.governing i).port with
              queue := (s.port (s.governing i).port).queue ++ [r], reservations := n } : Port).heldBlocks =
              (s.port (s.governing i).port).heldBlocks := by
            refine (heldBlocks_append (q := s.port (s.governing i).port) (records := [r]) (by rfl) (by rfl)).trans ?_
            simp [blocksOf, hr]
          refine stocked_congr (s := s) rfl (fun r => ?_) (setPort_field (·.holding) rfl) hs
          exact setPort_field (·.heldBlocks) (hheld _ _ rfl) r
        · rw [refuseOpening_eq]; exact ⟨hs.once, hs.holding⟩
    · exact hs
  | rearm i count => exact ⟨hs.once, hs.holding⟩

/-! ### The events of a port, and the resets -/

/-- A port rewritten with its queue, its line and its holding kept. -/
theorem stocked_setPort {p : Fin 4} {q : Port} (hheld : q.heldBlocks = (s.port p).heldBlocks)
    (hholding : q.holding = (s.port p).holding) (hs : s.Stocked) : (s.setPort p q).Stocked :=
  stocked_congr (s := s) rfl (setPort_field (·.heldBlocks) hheld) (setPort_field (·.holding) hholding) hs

theorem stocked_reportStall (p : Fin 4) (hs : s.Stocked) : (reportStall p s).Stocked := by
  have hmarked : (s.setPort p { s.port p with stallOutstanding := true }).Stocked := stocked_setPort (by rfl) (by rfl) hs
  rw [reportStall_eq]
  exact ⟨hmarked.once, hmarked.holding⟩

theorem stocked_endRecoveryIfDone (p : Fin 4) (hs : s.Stocked) : (endRecoveryIfDone p s).Stocked := by
  refine stocked_congr (endRecoveryIfDone_rest p s).2 ?_ ?_ hs
  all_goals
    rcases endRecoveryIfDone_cases p s with ⟨-, h⟩ | ⟨-, h⟩
    all_goals rw [h]
  case _ =>
    intro r
    obtain ⟨-, -, -, -, hdepartures⟩ := recovered_kept s p
    rw [endRecovery_port]
    split
    · rename_i hr; subst hr; unfold Port.heldBlocks; rw [hdepartures]
    · rfl
  case _ => exact fun _ => rfl
  case _ =>
    intro r
    obtain ⟨hholding, -⟩ := recovered_kept s p
    rw [endRecovery_port]
    split
    · rename_i hr; subst hr; exact hholding
    · rfl
  case _ => exact fun _ => rfl

theorem stocked_nextState (p : Fin 4) (hs : s.Stocked) : (nextState p s).Stocked := by
  unfold nextState
  split
  · exact stocked_setPort (by rfl) (by rfl) hs
  · exact stocked_endRecoveryIfDone p hs
  · exact hs

/-- A port flushed holds the blocks of its line alone. -/
theorem heldBlocks_of_flushed {q r : Port} (hline : r.transmission = q.transmission) (hqueue : r.queue = []) :
    r.heldBlocks = q.sentBlocks := by
  simp only [heldBlocks_eq, Port.sentBlocks, Port.departing, Port.waitingBlocks, hline, hqueue, List.flatMap_nil,
    List.append_nil]

theorem holding_of_flushed {q : Port} (h : q.holding = q.heldBlocks.length) :
    q.holding - q.waitingBlocks.length = q.sentBlocks.length := by
  rw [heldBlocks_eq, List.length_append] at h
  omega

theorem heldBlocks_completed (q : Port) (x : Transmission) : (q.completed x).heldBlocks = q.waitingBlocks := by
  have hqueue : (q.completed x).waitingBlocks = q.waitingBlocks := by
    unfold Port.completed
    split <;> rfl
  rw [heldBlocks_eq, sentBlocks_of_none (completed_kept q x).2.2.1, hqueue, List.nil_append]

/-- A stall flushes its port; a completion gives back the blocks of its line (R101, R102). -/
theorem PortEvent.stocked {e : RowEvent} (hs : s.Stocked) (h : PortEvent e s u) : u.Stocked := by
  cases h with
  | rise p =>
    refine stocked_setPort ?_ ?_ hs
    all_goals
      unfold Port.rise
      split <;> rfl
  | fall p =>
    refine stocked_setPort ?_ ?_ hs
    all_goals rw [Port.fall_eq]
    rfl
  | recover p =>
    have hrisen : (s.setPort p { s.port p with ready := true, state := .recovering }).Stocked :=
      stocked_setPort (by rfl) (by rfl) hs
    exact stocked_endRecoveryIfDone p hrisen
  | stall p =>
    refine stocked_reportStall p (stocked_exchange (fun r => stalledPart_port p r s) (fun a => ?_) ?_ hs)
    · obtain ⟨slots, ports, hrest⟩ := stalledPart_rest p s
      rw [heldBlocks_of_flushed (q := s.port p) (by rfl) (by rfl), heldBlocks_eq, hrest]
      simp only [List.count_append]
      omega
    · rw [heldBlocks_of_flushed (q := s.port p) (by rfl) (by rfl)]
      exact holding_of_flushed (hs.holding p)
  | stallAgain p =>
    have hstalled : (s.setPort p (s.port p).stall).Stocked := stocked_setPort (by rfl) (by rfl) hs
    exact stocked_reportStall p hstalled
  | complete p x _ hline =>
    refine stocked_nextState p (stocked_exchange (fun r => completedPart_port p r x s) (fun a => ?_) ?_ hs)
    · rw [heldBlocks_completed, heldBlocks_eq, sentBlocks_of_line hline]
      change (s.freeList ++ x.line.blockIds).count a + _ = _
      simp only [List.count_append]
      omega
    · have hholding := hs.holding p
      rw [heldBlocks_eq, sentBlocks_of_line hline, List.length_append] at hholding
      rw [heldBlocks_completed]
      have hleft : ((s.port p).completed x).holding = (s.port p).holding - x.line.blockIds.length := by
        unfold Port.completed
        split <;> rfl
      omega

/-- A line that goes on past a hard reset keeps its blocks (R105). -/
theorem hardReset_blocks (q : Port) :
    q.hardReset.heldBlocks = q.sentBlocks ∧ q.hardReset.holding = q.sentBlocks.length := by
  cases hline : q.transmission with
  | none =>
    have hnone : q.hardReset.transmission = none := by simp [Port.hardReset, hline]
    rw [heldBlocks_of_flushed (q := q.hardReset) rfl rfl, sentBlocks_of_none hnone, sentBlocks_of_none hline]
    simp [Port.hardReset, hline]
  | some x =>
    have hsome : q.hardReset.transmission = some x.age := by simp [Port.hardReset, hline]
    rw [heldBlocks_of_flushed (q := q.hardReset) rfl rfl, sentBlocks_of_line hsome, sentBlocks_of_line hline]
    simp [Port.hardReset, hline, Transmission.age]

theorem act_stocked (hs : s.Stocked) (h : Act c s u) : u.Stocked := by
  cases h with
  | window h => exact h.stocked hs
  | receiver | respond | enterSilent | notify | line | clearSlot => exact ⟨hs.once, hs.holding⟩
  | clearPort p => exact stocked_setPort (by rfl) (by rfl) hs
  | leaveSilent => rw [leaveSilent_eq]; exact ⟨hs.once, hs.holding⟩
  | startFrame depth payload r =>
    obtain ⟨slots, notify, hrest, -⟩ := switchBank_rest (s.setReceiver (r.startFrame depth payload))
    rw [hrest]
    exact ⟨hs.once, hs.holding⟩
  | event e _ _ _ hp heffect => exact (portEvent_of_eventEffect hp heffect).stocked hs
  | restart =>
    have hports := restartPart_port s
    obtain ⟨order, slots, ports, -, hrest⟩ := restartPart_rest s
    refine stocked_flush (by rw [hrest]) (fun p => ?_) (fun p => ?_) hs
    · rw [hports]
      exact heldBlocks_of_flushed (by rfl) (by rfl)
    · rw [hports]
      exact holding_of_flushed (hs.holding p)
  | writeEntry b i e =>
    obtain ⟨banks, slots, hrest⟩ := writeEntry_rest b i e s
    rw [hrest]
    exact ⟨hs.once, hs.holding⟩
  | selectBank b =>
    obtain ⟨pending, hrest⟩ := selectBank_rest b s
    rw [hrest]
    exact ⟨hs.once, hs.holding⟩
  | setPort a =>
    unfold Machine.setPort
    split
    · exact hs
    · split
      · exact hs
      · exact stocked_setPort (by rfl) (by rfl) hs
  | hardReset m1 m0 =>
    obtain ⟨ports, lines, hports, -, hrest⟩ := hardReset_rest m1 m0 s
    have hport : ∀ p, (hardReset m1 m0 s).port p = (s.port p).hardReset := fun p => by rw [hrest]; exact hports p
    exact stocked_flush (by rw [hrest]) (fun p => by rw [hport]; exact (hardReset_blocks _).1)
      (fun p => by rw [hport]; exact (hardReset_blocks _).2) hs

end Sys2Proof.Machine
end

section
/-! The statement about the line store (section 5.4), settled. -/

namespace Sys2Proof.Machine

/-- Settles O7: every act that moves a block takes it from the free list to one record, or from its record back. -/
theorem everyStepKeepsTheLineStore : Obligations.EveryStepKeepsTheLineStore :=
  fun s t hs h => (stocked_iff t).mp
    (step_keeps (P := State.Stocked) (fun _ _ _ => act_stocked) (fun _ _ hv => ⟨hv.once, hv.holding⟩)
      ((stocked_iff s).mpr hs) h)

end Sys2Proof.Machine
end

section
/-! SUPPORT. The law of the egress ports, act by act: each port's state against its line, its queue and its reservations,
which are the window frames in progress. -/

namespace Sys2Proof.Machine

variable {c : Instr} {s u : State}

/-! ### What each state says of its port -/

/-- What a port's state says of its ready level, its line and its queue (Tables 6.1 and 6.2). -/
def Port.Fits (q : Port) : Prop :=
  match q.state with
  | .disabled => q.enable = false ∧ q.queue = [] ∧ q.transmission = none ∧ q.openSet = 0 ∧ q.reservations = 0
  | .idle => q.enable = true ∧ q.ready = true ∧ q.transmission = none
  | .sending => q.enable = true ∧ q.transmission ≠ none
  | .held => q.enable = true ∧ q.ready = false ∧ q.transmission = none
  | .stalled => q.enable = true ∧ q.ready = false ∧ q.transmission = none ∧ q.queue = [] ∧ q.reservations = 0
  | .recovering => q.enable = true ∧ q.queue = [] ∧ q.reservations = 0 ∧ (q.openSet ≠ 0 ∨ q.transmission ≠ none)

theorem consistent_iff (q : Port) : q.consistent = true ↔ q.Fits := by
  unfold Port.consistent Port.Fits
  cases q.state <;> simp [and_assoc, Option.isSome_iff_ne_none]

section
variable {q : Port}

theorem Port.Fits.disabled (h : q.Fits) (hs : q.state = .disabled) :
    q.enable = false ∧ q.queue = [] ∧ q.transmission = none ∧ q.openSet = 0 ∧ q.reservations = 0 := by
  simpa only [Port.Fits, hs] using h

theorem Port.Fits.idle (h : q.Fits) (hs : q.state = .idle) :
    q.enable = true ∧ q.ready = true ∧ q.transmission = none := by simpa only [Port.Fits, hs] using h

theorem Port.Fits.sending (h : q.Fits) (hs : q.state = .sending) : q.enable = true ∧ q.transmission ≠ none := by
  simpa only [Port.Fits, hs] using h

theorem Port.Fits.held (h : q.Fits) (hs : q.state = .held) :
    q.enable = true ∧ q.ready = false ∧ q.transmission = none := by simpa only [Port.Fits, hs] using h

theorem Port.Fits.stalled (h : q.Fits) (hs : q.state = .stalled) :
    q.enable = true ∧ q.ready = false ∧ q.transmission = none ∧ q.queue = [] ∧ q.reservations = 0 := by
  simpa only [Port.Fits, hs] using h

theorem Port.Fits.recovering (h : q.Fits) (hs : q.state = .recovering) :
    q.enable = true ∧ q.queue = [] ∧ q.reservations = 0 ∧ (q.openSet ≠ 0 ∨ q.transmission ≠ none) := by
  simpa only [Port.Fits, hs] using h

/-- The hold timer plays no part. -/
theorem Port.Fits.withTimer (h : q.Fits) (timer : Timer) : ({ q with holdTimer := timer } : Port).Fits := h

/-- A port with a window frame in progress is accepting (R110). -/
theorem Port.Fits.accepting (h : q.Fits) (hr : 0 < q.reservations) : q.accepting = true := by
  rw [accepting_iff]
  cases hs : q.state with
  | disabled => obtain ⟨-, -, -, -, hzero⟩ := h.disabled hs; omega
  | stalled => obtain ⟨-, -, -, -, hzero⟩ := h.stalled hs; omega
  | recovering => obtain ⟨-, -, hzero, -⟩ := h.recovering hs; omega
  | idle | sending | held => simp

/-- An accepting port takes records and reservations (R108, R109). -/
theorem Port.Fits.of_accepting (h : q.Fits) (ha : q.accepting = true) {r : Port} (hstate : r.state = q.state)
    (henable : r.enable = q.enable) (hready : r.ready = q.ready) (hline : r.transmission = q.transmission) : r.Fits := by
  unfold Port.Fits
  rw [hstate]
  rcases (accepting_iff q).mp ha with hs | hs | hs
  · obtain ⟨he, hr, hl⟩ := h.idle hs
    simp only [hs, henable, hready, hline]
    exact ⟨he, hr, hl⟩
  · obtain ⟨he, hl⟩ := h.sending hs
    simp only [hs, henable, hline]
    exact ⟨he, hl⟩
  · obtain ⟨he, hr, hl⟩ := h.held hs
    simp only [hs, henable, hready, hline]
    exact ⟨he, hr, hl⟩

/-- A port at rest by its ready level, no line in transmission. -/
theorem fits_rest (henable : q.enable = true) (hline : q.transmission = none) :
    ({ q with state := q.restState } : Port).Fits := by
  unfold Port.Fits Port.restState
  dsimp only
  cases hready : q.ready with
  | true => exact ⟨henable, rfl, hline⟩
  | false => exact ⟨henable, rfl, hline⟩

end

/-- A port within its bounds, its state fitting, its hold timer not left running where it has no place. -/
structure Port.Core (q : Port) : Prop where
  fits : q.Fits
  ceiling : q.ceiling ≤ 1024
  holdTimeout : q.holdTimeout ≤ 1000
  controlCount : q.controlCount ≤ 4
  timed : q.state = .recovering → q.holdTimer.isRunning = true → q.ready = false ∧ q.transmission = none
  untimed : q.state = .stalled → q.holdTimer.isRunning = false

/-! ### Window frames in progress on a port (R109) -/

theorem activeOn_eq_sum (s : State) (p : Fin 4) :
    s.activeOn p = ∑ i, if (s.slot i).routedTo p then 1 else 0 := by
  have hlist : ∀ l : List (Fin 16), (l.filter fun i => (s.slot i).routedTo p).length =
      (l.map fun i => if (s.slot i).routedTo p then 1 else 0).sum := by
    intro l
    induction l with
    | nil => rfl
    | cons i l ih =>
      rw [List.filter_cons, List.map_cons, List.sum_cons, ← ih]
      split
      · rw [List.length_cons, Nat.add_comm]
      · rw [Nat.zero_add]
  rw [Fin.sum_univ_def]
  exact hlist _

theorem activeOn_congr {p : Fin 4} (h : ∀ i, (u.slot i).routedTo p = (s.slot i).routedTo p) :
    u.activeOn p = s.activeOn p := by
  simp only [activeOn_eq_sum, h]

theorem activeOn_of_idle (h : s.idle) (p : Fin 4) : s.activeOn p = 0 := by
  rw [activeOn_eq_sum]
  refine Finset.sum_eq_zero fun i _ => if_neg ?_
  have hi := h i
  unfold Slot.routedTo
  cases hs : (s.slot i).state <;> simp_all [SlotState.isActive]

/-- One slot rewritten. -/
theorem activeOn_exchange {i : Fin 16} {t : Slot} (hslot : ∀ j, u.slot j = if j = i then t else s.slot j) (p : Fin 4) :
    u.activeOn p + (if (s.slot i).routedTo p then 1 else 0) = s.activeOn p + if t.routedTo p then 1 else 0 := by
  rw [activeOn_eq_sum, activeOn_eq_sum, ← Finset.add_sum_erase _ _ (Finset.mem_univ i),
    ← Finset.add_sum_erase _ (fun i => if (s.slot i).routedTo p then 1 else 0) (Finset.mem_univ i)]
  have hrest : ∑ j ∈ Finset.univ.erase i, (if (u.slot j).routedTo p then 1 else 0) =
      ∑ j ∈ Finset.univ.erase i, if (s.slot j).routedTo p then 1 else 0 :=
    Finset.sum_congr rfl fun j hj => by rw [hslot, if_neg (Finset.ne_of_mem_erase hj)]
  rw [hrest, hslot, if_pos rfl]
  omega

theorem routedTo_of_active {t : Slot} {x : WindowContext} (h : t.context = some x) (p : Fin 4) :
    t.routedTo p = (x.port == p) := by
  rw [routedTo_eq, h]
  rfl

theorem routedTo_of_not_active {t : Slot} (h : t.state.isActive = false) (p : Fin 4) : t.routedTo p = false := by
  unfold Slot.routedTo
  cases hs : t.state <;> simp_all [SlotState.isActive]

theorem activeOn_pos {i : Fin 16} {p : Fin 4} (h : (s.slot i).routedTo p = true) : 0 < s.activeOn p := by
  rw [activeOn_eq_sum]
  refine Finset.sum_pos' (fun _ _ => Nat.zero_le _) ⟨i, Finset.mem_univ i, ?_⟩
  rw [if_pos h]
  exact Nat.one_pos

/-! ### The law that every act keeps -/

/-- Every port within its law but for what waits on it; reservations count the window frames in progress, and there is none
outside an ingress frame. -/
structure State.Ported (s : State) : Prop where
  reservations : ∀ p, (s.port p).reservations = s.activeOn p
  idle : s.receiver.state ≠ .inFrame → s.idle
  core : ∀ p, (s.port p).Core

/-- Where slots stay routed as they were and ports keep their reservations. -/
theorem ported_congr (hrouted : ∀ i p, (u.slot i).routedTo p = (s.slot i).routedTo p)
    (hactive : ∀ i, (u.slot i).state.isActive = (s.slot i).state.isActive)
    (hreceiver : u.receiver.state = s.receiver.state)
    (hreservations : ∀ p, (u.port p).reservations = (s.port p).reservations) (hcore : ∀ p, (u.port p).Core)
    (hs : s.Ported) : u.Ported := by
  refine ⟨fun p => ?_, fun hout i => ?_, hcore⟩
  · rw [hreservations, hs.reservations, activeOn_congr fun i => hrouted i p]
  · rw [hactive]
    exact hs.idle (hreceiver ▸ hout) i

/-- Slots as they were. -/
theorem ported_of_slots (hslot : ∀ i, u.slot i = s.slot i) (hreceiver : u.receiver.state = s.receiver.state)
    (hreservations : ∀ p, (u.port p).reservations = (s.port p).reservations) (hcore : ∀ p, (u.port p).Core)
    (hs : s.Ported) : u.Ported :=
  ported_congr (fun i p => by rw [hslot]) (fun i => by rw [hslot]) hreceiver hreservations hcore hs

/-- No slot ACTIVE, no reservation. -/
theorem ported_of_idle (hidle : u.idle) (hreservations : ∀ p, (u.port p).reservations = 0)
    (hcore : ∀ p, (u.port p).Core) : u.Ported :=
  ⟨fun p => by rw [hreservations, activeOn_of_idle hidle], fun _ => hidle, hcore⟩

/-- While no slot is ACTIVE no port has a reservation. -/
theorem State.Ported.reservations_of_idle (hs : s.Ported) (hidle : s.idle) (p : Fin 4) :
    (s.port p).reservations = 0 := by rw [hs.reservations, activeOn_of_idle hidle]

/-- A port on which a slot cuts a window frame has its reservation, and accepts (R109, R110). -/
theorem State.Ported.accepting (hs : s.Ported) {i : Fin 16} {x : WindowContext} (hx : (s.slot i).context = some x) :
    0 < (s.port x.port).reservations ∧ (s.port x.port).accepting = true := by
  have hpos : 0 < (s.port x.port).reservations := by
    rw [hs.reservations]
    exact activeOn_pos (i := i) (by rw [routedTo_of_active hx]; exact beq_self_eq_true _)
  exact ⟨hpos, (hs.core x.port).fits.accepting hpos⟩

/-- An accepting port whose queue and reservations alone move. -/
theorem Port.Core.of_accepting {q r : Port} (h : q.Core) (ha : q.accepting = true) (hstate : r.state = q.state)
    (henable : r.enable = q.enable) (hready : r.ready = q.ready) (hline : r.transmission = q.transmission)
    (hceiling : r.ceiling = q.ceiling) (htimeout : r.holdTimeout = q.holdTimeout)
    (hcount : r.controlCount = q.controlCount) : r.Core := by
  have hidle : r.state ≠ .recovering ∧ r.state ≠ .stalled := by
    rw [hstate]
    rcases (accepting_iff q).mp ha with hs | hs | hs <;> rw [hs] <;> exact ⟨nofun, nofun⟩
  exact ⟨h.fits.of_accepting ha hstate henable hready hline, hceiling ▸ h.ceiling, htimeout ▸ h.holdTimeout,
    hcount ▸ h.controlCount, fun hs => absurd hs hidle.1, fun hs => absurd hs hidle.2⟩

/-- A port whose counters or marks alone move. -/
theorem Port.Core.of_same {q r : Port} (h : q.Core) (hstate : r.state = q.state) (henable : r.enable = q.enable)
    (hready : r.ready = q.ready) (hline : r.transmission = q.transmission) (hqueue : r.queue = q.queue)
    (hset : r.openSet = q.openSet) (hreservations : r.reservations = q.reservations)
    (hceiling : r.ceiling = q.ceiling) (htimeout : r.holdTimeout = q.holdTimeout)
    (hcount : r.controlCount = q.controlCount) (htimer : r.holdTimer = q.holdTimer) : r.Core := by
  obtain ⟨hfits, hceil, htime, hcontrol, htimed, huntimed⟩ := h
  refine ⟨?_, hceiling ▸ hceil, htimeout ▸ htime, hcount ▸ hcontrol, ?_, ?_⟩
  · unfold Port.Fits at hfits ⊢
    rw [hstate, henable, hready, hline, hqueue, hset, hreservations]
    exact hfits
  · rw [hstate, htimer, hready, hline]
    exact htimed
  · rw [hstate, htimer]
    exact huntimed

/-! ### The end of a step at one port -/

theorem countAfter_le (src : Source) (n : Nat) : src.countAfter n ≤ 4 := by
  unfold Source.countAfter
  split
  · exact Nat.zero_le _
  · exact Nat.min_le_right ..
  · exact Nat.min_le_right ..

theorem mayBegin_iff (q : Port) :
    q.mayBegin = true ↔ (q.state = .idle ∨ q.state = .recovering) ∧ q.ready = true ∧ q.transmission = none := by
  simp [Port.mayBegin, and_assoc]

/-- A line begun leaves a fitting port (R111, R118). -/
theorem fits_portSending {p : Fin 4} (h : (s.port p).Fits) : (s.portSending p).Fits := by
  unfold State.portSending
  cases hsends : s.sendsNext p with
  | none => exact h
  | some src =>
    have hbegin : (s.port p).mayBegin = true := by
      by_contra hno
      rw [State.sendsNext, if_neg hno] at hsends
      cases hsends
    obtain ⟨hstate, -, -⟩ := (mayBegin_iff _).mp hbegin
    rcases hstate with hstate | hstate
    · obtain ⟨henable, -, -⟩ := h.idle hstate
      simp [Port.Fits, Port.sending, hstate, henable]
    · obtain ⟨henable, hqueue, hreservations, -⟩ := h.recovering hstate
      simp [Port.Fits, Port.sending, hstate, henable, hqueue, hreservations]

theorem controlCount_portSending {p : Fin 4} (h : (s.port p).controlCount ≤ 4) :
    (s.portSending p).controlCount ≤ 4 := by
  unfold State.portSending
  cases s.sendsNext p with
  | none => exact h
  | some src => exact countAfter_le ..

theorem core_settle {p : Fin 4} (h : (s.port p).Core) : ((settle s).port p).Core := by
  have hends := stepEnds_settle s
  have htimer := hends.holdTimer p
  obtain ⟨timer, hport⟩ : ∃ timer, (settle s).port p = { s.portSending p with holdTimer := timer } := ⟨_, hends.port p⟩
  obtain ⟨-, hceiling, -, htimeout, -⟩ := portSending_kept s p
  refine ⟨?_, ?_, ?_, ?_, fun hs hrun => ?_, fun hs => ?_⟩
  · rw [hport]
    exact (fits_portSending h.fits).withTimer timer
  · rw [hport]
    exact hceiling.le.trans h.ceiling
  · rw [hport]
    exact htimeout.le.trans h.holdTimeout
  · rw [hport]
    exact controlCount_portSending h.controlCount
  · exact (holdCondition_recovering hs).mp (htimer.mp hrun).1
  · by_contra hrun
    have hcondition := (htimer.mp (by simpa using hrun)).1
    simp only [State.holdCondition, ports_eq_port, hs, Bool.false_eq_true] at hcondition

/-- A port that accepts is bound by no rule of the hold timer here. -/
theorem core_of_accepting {q : Port} (hfits : q.Fits) (ha : q.accepting = true) (hceiling : q.ceiling ≤ 1024)
    (htimeout : q.holdTimeout ≤ 1000) (hcount : q.controlCount ≤ 4) : q.Core := by
  refine ⟨hfits, hceiling, htimeout, hcount, fun hs => ?_, fun hs => ?_⟩
  all_goals rw [Port.accepting, hs] at ha; cases ha

/-! ### The acts of the window frames -/

/-- One slot rewritten: its port's reservation moves with it, and it becomes ACTIVE only inside a frame. -/
theorem ported_of_slot {i : Fin 16} {t : Slot} (hslot : ∀ j, u.slot j = if j = i then t else s.slot j)
    (hactive : t.state.isActive = true → (s.slot i).state.isActive = true ∨ s.receiver.state = .inFrame)
    (hreceiver : u.receiver = s.receiver)
    (hreservations : ∀ p, (u.port p).reservations + (if (s.slot i).routedTo p then 1 else 0) =
      (s.port p).reservations + if t.routedTo p then 1 else 0)
    (hcore : ∀ p, (u.port p).Core) (hs : s.Ported) : u.Ported := by
  refine ⟨fun p => ?_, fun hout j => ?_, hcore⟩
  · have hcount := activeOn_exchange hslot p
    have hboth := hreservations p
    rw [hs.reservations] at hboth
    omega
  · rw [hreceiver] at hout
    rw [hslot]
    split
    · by_contra hyes
      rcases hactive (by simpa using hyes) with h | h
      · rw [hs.idle hout i] at h; cases h
      · exact hout h
    · exact hs.idle hout j

/-- One slot rewritten, on its port or on none as before. -/
theorem ported_setSlot {i : Fin 16} {t : Slot} (hrouted : ∀ p, t.routedTo p = (s.slot i).routedTo p)
    (hactive : t.state.isActive = (s.slot i).state.isActive) (hs : s.Ported) : (s.setSlot i t).Ported :=
  ported_of_slot (fun _ => slot_setSlot ..) (fun h => .inl (hactive ▸ h)) rfl (fun p => by rw [hrouted]; rfl) hs.core hs

/-- A port rewritten, its reservations kept. -/
theorem ported_setPort {p : Fin 4} {q : Port} (hreservations : q.reservations = (s.port p).reservations) (hq : q.Core)
    (hs : s.Ported) : (s.setPort p q).Ported :=
  ported_of_slots (s := s) (fun _ => rfl) rfl (setPort_field (·.reservations) hreservations)
    (forall_port_setPort (Q := fun _ => Port.Core) hs.core hq) hs

theorem routedTo_of_state {t x : Slot} (h : t.state = x.state) (p : Fin 4) : t.routedTo p = x.routedTo p := by
  unfold Slot.routedTo
  rw [h]

theorem ported_endWindow (code : CompletionCode) (i : Fin 16) (hs : s.Ported) : (endWindow code i s).Ported := by
  rw [endWindow_eq]
  cases hx : (s.slot i).context with
  | none => exact hs
  | some x =>
    obtain ⟨hpos, haccepts⟩ := hs.accepting hx
    have hended := settledState_not_active (s.governing i) (s.slot i).armCount
    refine ported_of_slot (s := s) (i := i) (fun j => slot_setSlot (s.setPort _ _) ..)
      (fun h => absurd h (by rw [hended]; exact Bool.false_ne_true)) rfl (fun p => ?_) ?_ hs
    · rw [routedTo_of_active hx, routedTo_of_not_active hended]
      change (State.port (s.setPort x.port _) p).reservations + _ = _
      rw [port_setPort]
      by_cases hp : p = x.port
      · subst hp
        simp only [if_true, beq_self_eq_true, Bool.false_eq_true, if_false]
        omega
      · simp [hp, Ne.symm hp]
    · exact forall_port_setPort (Q := fun _ => Port.Core) hs.core
        ((hs.core x.port).of_accepting haccepts rfl rfl rfl rfl rfl rfl rfl)

theorem ported_askOpening (i : Fin 16) (hframe : s.receiver.state = .inFrame) (hs : s.Ported) :
    (askOpening i s).Ported := by
  by_cases hready : (s.slot i).state = .ready
  · by_cases hgrant : (s.port (s.governing i).port).accepting = true ∧
        (s.port (s.governing i).port).queued + (s.port (s.governing i).port).reservations ≤ 126
    · rw [askOpening_granted hready hgrant.1 hgrant.2]
      have hbefore (p : Fin 4) : (s.slot i).routedTo p = false :=
        routedTo_of_not_active (by rw [hready]; rfl) p
      refine ported_of_slot (s := s) (i := i) (t := (s.slot i).opening (s.governing i)) (fun j => slot_setSlot (s.setPort _ _) ..)
        (fun _ => .inr hframe) rfl (fun p => ?_) ?_ hs
      · rw [hbefore, routedTo_of_active (t := (s.slot i).opening (s.governing i)) (by rfl)]
        change (State.port (s.setPort (s.governing i).port _) p).reservations + _ = _
        rw [port_setPort]
        by_cases hp : p = (s.governing i).port
        · subst hp
          simp [Entry.openContext]
        · simp [hp, Ne.symm hp, Entry.openContext]
      · exact forall_port_setPort (Q := fun _ => Port.Core) hs.core
          ((hs.core _).of_accepting hgrant.1 rfl rfl rfl rfl rfl rfl rfl)
    · rw [askOpening_refused hready hgrant, refuseOpening_eq]
      have hskipped : (s.setSlot i { s.slot i with skipped := satInc (s.slot i).skipped }).Ported :=
        ported_setSlot (fun _ => rfl) rfl hs
      exact ⟨hskipped.reservations, hskipped.idle, hskipped.core⟩
  · rw [askOpening_of_not_ready hready]
    exact hs

theorem ported_settle (hs : s.Ported) : (settle s).Ported :=
  ported_of_slots (fun i => (stepEnds_settle s).slot i) (by rw [(movesWindows_settle s).receiver])
    (fun p => by
      obtain ⟨-, -, -, -, hreservations, -⟩ := portSending_kept s p
      rw [(stepEnds_settle s).port p]
      exact hreservations)
    (fun p => core_settle (hs.core p)) hs

theorem ported_updateContext {i : Fin 16} {f : WindowContext → WindowContext} (hport : ∀ x, (f x).port = x.port)
    (hs : s.Ported) : (updateContext i f s).Ported := by
  unfold updateContext
  split
  · rename_i x hx
    refine ported_setSlot (fun p => ?_) (by rw [hx]; rfl) hs
    unfold Slot.routedTo
    simp only [hx, hport]
  · exact hs

theorem WindowAct.ported (hs : s.Ported) (h : WindowAct s u) : u.Ported := by
  cases h with
  | event cls sub hi lo => rw [raiseEvent_eq]; exact ⟨hs.reservations, hs.idle, hs.core⟩
  | settle => exact ported_settle hs
  | endWindow code i => exact ported_endWindow code i hs
  | mark i f _ hport => exact ported_updateContext hport hs
  | countDrop p =>
    exact ported_setPort (by rfl) ((hs.core p).of_same rfl rfl rfl rfl rfl rfl rfl rfl rfl rfl rfl) hs
  | store i x k ids r v _ hx hclaim =>
    obtain ⟨-, haccepts⟩ := hs.accepting hx
    have hstored := ported_setPort (p := x.port) (q := { s.port x.port with
      holding := (s.port x.port).holding + k, queue := (s.port x.port).queue ++ [r] }) rfl
      ((hs.core x.port).of_accepting haccepts rfl rfl rfl rfl rfl rfl rfl) hs
    rw [stored_eq r hclaim]
    exact ⟨hstored.reservations, hstored.idle, hstored.core⟩
  | countHoldOff i => exact ported_setSlot (routedTo_of_state rfl) rfl hs
  | askOpening i _ hframe => exact ported_askOpening i hframe hs
  | rearm i count =>
    have hsame : ((s.slot i).withArmCount (s.governing i) count).state.isActive = (s.slot i).state.isActive := by
      unfold Slot.withArmCount
      dsimp only
      split
      · rfl
      · rename_i h
        rw [settledState_not_active]
        exact (Bool.eq_false_of_not_eq_true h).symm
    refine ported_setSlot (fun p => ?_) hsame hs
    by_cases hactive : (s.slot i).state.isActive = true
    · refine routedTo_of_state ?_ p
      unfold Slot.withArmCount
      dsimp only
      rw [if_pos hactive]
    · have hidle := Bool.eq_false_of_not_eq_true hactive
      rw [routedTo_of_not_active (hsame.trans hidle), routedTo_of_not_active hidle]

end Sys2Proof.Machine
end

section
/-! SUPPORT. The law of the egress ports under the events of a port and under the other commands. -/

namespace Sys2Proof.Machine

variable {c : Instr} {s u : State} {q : Port}

/-! ### The events of a port, as they move it -/

theorem Port.Fits.enabled (h : q.Fits) (hs : q.state ≠ .disabled) : q.enable = true := by
  cases hq : q.state with
  | disabled => exact absurd hq hs
  | idle => exact (h.idle hq).1
  | sending => exact (h.sending hq).1
  | held => exact (h.held hq).1
  | stalled => exact (h.stalled hq).1
  | recovering => exact (h.recovering hq).1

/-- A port with a line in transmission is SENDING or RECOVERING (Table 6.2). -/
theorem Port.Fits.of_line (h : q.Fits) (hline : q.transmission ≠ none) : q.state = .sending ∨ q.state = .recovering := by
  cases hq : q.state with
  | disabled => exact absurd (h.disabled hq).2.2.1 hline
  | idle => exact absurd (h.idle hq).2.2 hline
  | sending => exact .inl rfl
  | held => exact absurd (h.held hq).2.2 hline
  | stalled => exact absurd (h.stalled hq).2.2.1 hline
  | recovering => exact .inr rfl

/-- A port that only its state, pin or timer tells apart from one within its law. -/
theorem core_of_kept {r : Port} (h : q.Core) (hfits : r.Fits) (hceiling : r.ceiling = q.ceiling)
    (htimeout : r.holdTimeout = q.holdTimeout) (hcount : r.controlCount ≤ 4)
    (htimer : r.holdTimer.isRunning = true → r.state ≠ .recovering ∧ r.state ≠ .stalled) : r.Core := by
  refine ⟨hfits, hceiling ▸ h.ceiling, htimeout ▸ h.holdTimeout, hcount, fun hs hrun => absurd hs (htimer hrun).1,
    fun hs => ?_⟩
  by_contra hrun
  exact (htimer (by simpa using hrun)).2 hs

/-- A rise of ready on a port that is not STALLED (R114). -/
theorem core_rise (h : q.Core) (hstate : q.state ≠ .stalled) : q.rise.Core := by
  have hlevel (hs : q.state = .idle ∨ q.state = .sending ∨ q.state = .disabled) : q.rise.Core := by
    rw [Port.rise_of_level hs]
    refine core_of_kept h ?_ rfl rfl h.controlCount fun _ => by rcases hs with hs | hs | hs <;> simp [hs]
    have hfits := h.fits
    rcases hs with hs | hs | hs
    · obtain ⟨henable, -, hline⟩ := hfits.idle hs
      simp [Port.Fits, hs, henable, hline]
    all_goals simpa only [Port.Fits, hs] using hfits
  cases hs : q.state with
  | disabled => exact hlevel (.inr (.inr hs))
  | idle => exact hlevel (.inl hs)
  | sending => exact hlevel (.inr (.inl hs))
  | held =>
    obtain ⟨henable, -, hline⟩ := h.fits.held hs
    rw [Port.rise_of_held hs]
    exact core_of_kept h (by simp [Port.Fits, henable, hline]) rfl rfl h.controlCount fun _ => ⟨nofun, nofun⟩
  | stalled => exact absurd hs hstate
  | recovering =>
    have hfits := h.fits.recovering hs
    rw [Port.rise_of_recovering hs]
    exact core_of_kept h (by simpa only [Port.Fits, hs] using hfits) rfl rfl h.controlCount
      fun hrun => by simp [Timer.isRunning] at hrun

/-- A fall of ready (R114). -/
theorem core_fall (h : q.Core) (hready : q.ready = true) : q.fall.Core := by
  have hfits := h.fits
  have htimer (hs : q.state = .recovering ∨ q.state = .stalled) : ¬q.holdTimer.isRunning = true := fun hrun => by
    rcases hs with hs | hs
    · rw [(h.timed hs hrun).1] at hready; cases hready
    · rw [h.untimed hs] at hrun; cases hrun
  rw [Port.fall_eq]
  refine core_of_kept h ?_ rfl rfl h.controlCount fun hrun => ?_
  · cases hs : q.state with
    | idle =>
      obtain ⟨henable, -, hline⟩ := hfits.idle hs
      simp [Port.Fits, henable, hline]
    | held =>
      obtain ⟨henable, -, hline⟩ := hfits.held hs
      simp [Port.Fits, henable, hline]
    | stalled =>
      rw [(hfits.stalled hs).2.1] at hready; cases hready
    | disabled | sending | recovering => simpa only [Port.Fits, hs, reduceCtorEq, if_false] using hfits
  · cases hs : q.state with
    | recovering => exact absurd hrun (htimer (.inl hs))
    | stalled => exact absurd hrun (htimer (.inr hs))
    | disabled | idle | sending | held => simp

/-- The hold timer of a RECOVERING port has expired (R117). -/
theorem core_stallAgain (h : q.Core) (hstate : q.state = .recovering) (hrun : q.holdTimer.isRunning = true) :
    q.stall.Core := by
  obtain ⟨henable, hqueue, hreservations, -⟩ := h.fits.recovering hstate
  obtain ⟨hready, hline⟩ := h.timed hstate hrun
  exact core_of_kept h (by simp [Port.Fits, Port.stall, henable, hready, hline, hqueue, hreservations]) rfl rfl
    h.controlCount fun hrun => by simp [Port.stall, Timer.isRunning] at hrun

/-- A port that has left its recovery accepts. -/
theorem accepting_recovered (s : State) (p : Fin 4) : (s.recovered p).accepting = true := by
  have hrest : ((s.resting p).port p).accepting = true := by
    rw [resting_port, if_pos rfl, accepting_iff]
    unfold Port.restState
    dsimp only
    split
    · exact .inl rfl
    · exact .inr (.inr rfl)
  have hsent : ((s.resting p).portSending p).accepting = true := by
    unfold State.portSending
    split
    · rw [accepting_iff] at hrest ⊢
      unfold Port.sending
      dsimp only
      split
      · exact .inr (.inl rfl)
      · exact hrest
    · exact hrest
  exact hsent

theorem core_recovered {p : Fin 4} (henable : (s.port p).enable = true) (hline : (s.port p).transmission = none)
    (hbounds : (s.port p).ceiling ≤ 1024 ∧ (s.port p).holdTimeout ≤ 1000 ∧ (s.port p).controlCount ≤ 4) : (s.recovered p).Core := by
  have hrest : (s.resting p).port p = { s.port p with state := (s.port p).restState } := by
    rw [resting_port, if_pos rfl]
  have hfits : ((s.resting p).port p).Fits := hrest ▸ fits_rest henable hline
  obtain ⟨-, hceiling, -, htimeout, -⟩ := portSending_kept (s.resting p) p
  rw [hrest] at hceiling htimeout
  have hcount : ((s.resting p).portSending p).controlCount ≤ 4 :=
    controlCount_portSending (by rw [hrest]; exact hbounds.2.2)
  exact core_of_accepting (q := s.recovered p) (fits_portSending hfits) (accepting_recovered s p)
    (hceiling.le.trans hbounds.1) (htimeout.le.trans hbounds.2.1) hcount

/-! ### The events of a port, as they move the part -/

/-- A recovery that ends, or goes on within the law. -/
theorem ported_endRecoveryIfDone {p : Fin 4}
    (hreservations : ∀ p, (s.port p).reservations = s.activeOn p) (hidle : s.receiver.state ≠ .inFrame → s.idle)
    (hother : ∀ r, r ≠ p → (s.port r).Core)
    (hdone : (s.port p).openSet = 0 → (s.port p).transmission = none → (s.recovered p).Core)
    (hmore : ¬((s.port p).openSet = 0 ∧ (s.port p).transmission = none) → (s.port p).Core) :
    (endRecoveryIfDone p s).Ported := by
  have hmoves := portMoves_endRecoveryIfDone p s
  have hslot : ∀ i, (endRecoveryIfDone p s).slot i = s.slot i := fun i => by
    unfold State.slot
    rw [(endRecoveryIfDone_rest p s).1]
  refine ⟨fun r => ?_, fun hout i => ?_, fun r => ?_⟩
  · rw [activeOn_congr (s := s) fun i => by rw [hslot], ← hreservations r]
    rcases endRecoveryIfDone_cases p s with ⟨-, h⟩ | ⟨-, h⟩
    · rw [h, endRecovery_port]
      split
      · rename_i hr; subst hr; exact (recovered_kept s r).2.1
      · rfl
    · rw [h]
  · rw [hslot]
    exact hidle (hmoves.receiver ▸ hout) i
  · rcases endRecoveryIfDone_cases p s with ⟨⟨hset, hline⟩, h⟩ | ⟨hleft, h⟩
    · rw [h, endRecovery_port]
      split
      · exact hdone hset hline
      · rename_i hr; exact hother r hr
    · rw [h]
      by_cases hr : r = p
      · subst hr; exact hmore hleft
      · exact hother r hr

theorem ported_reportStall (p : Fin 4) (hs : s.Ported) : (reportStall p s).Ported := by
  have hmarked : (s.setPort p { s.port p with stallOutstanding := true }).Ported :=
    ported_setPort rfl ((hs.core p).of_same rfl rfl rfl rfl rfl rfl rfl rfl rfl rfl rfl) hs
  rw [reportStall_eq]
  exact ⟨hmarked.reservations, hmarked.idle, hmarked.core⟩

theorem Port.Core.bounds (h : q.Core) : q.ceiling ≤ 1024 ∧ q.holdTimeout ≤ 1000 ∧ q.controlCount ≤ 4 :=
  ⟨h.ceiling, h.holdTimeout, h.controlCount⟩

theorem completed_bounds (q : Port) (x : Transmission) :
    (q.completed x).ceiling = q.ceiling ∧ (q.completed x).holdTimeout = q.holdTimeout ∧
    (q.completed x).controlCount = q.controlCount ∧ (q.completed x).enable = q.enable ∧
    (q.completed x).queue = q.queue ∧ (q.completed x).reservations = q.reservations ∧
    (q.completed x).holdTimer = q.holdTimer := by
  unfold Port.completed
  split <;> exact ⟨rfl, rfl, rfl, rfl, rfl, rfl, rfl⟩

/-- Ready rises on a STALLED port (R114, R118). -/
theorem ported_recover {p : Fin 4} (hstate : (s.port p).state = .stalled) (hs : s.Ported) :
    (endRecoveryIfDone p (s.setPort p { s.port p with ready := true, state := .recovering })).Ported := by
  have hcore := hs.core p
  obtain ⟨henable, -, hline, hqueue, hzero⟩ := hcore.fits.stalled hstate
  have hport : (s.setPort p { s.port p with ready := true, state := .recovering }).port p =
      { s.port p with ready := true, state := .recovering } := by rw [port_setPort, if_pos rfl]
  refine ported_endRecoveryIfDone ?_ hs.idle (fun r hr => ?_) (fun _ _ => ?_) fun hmore => ?_
  · exact fun r => (setPort_field (·.reservations) (by rfl) r).trans (hs.reservations r)
  · rw [port_setPort, if_neg hr]; exact hs.core r
  · refine core_recovered ?_ ?_ ?_ <;> rw [hport]
    · exact henable
    · exact hline
    · exact hcore.bounds
  · rw [hport] at hmore ⊢
    have hset : (s.port p).openSet ≠ 0 := fun h => hmore ⟨h, hline⟩
    refine core_of_kept hcore ?_ rfl rfl hcore.controlCount fun hrun => ?_
    · exact ⟨henable, hqueue, hzero, .inl hset⟩
    · rw [show (s.port p).holdTimer.isRunning = false from hcore.untimed hstate] at hrun
      cases hrun

/-- The hold timer of a HELD port expires (R116). -/
theorem ported_stalledPart {p : Fin 4} (hstate : (s.port p).state = .held) (hs : s.Ported) :
    (stalledPart p s).Ported := by
  have hslot := stalledPart_slot p s
  have hport := fun r => stalledPart_port p r s
  obtain ⟨slots, ports, hrest⟩ := stalledPart_rest p s
  have hreceiver : (stalledPart p s).receiver = s.receiver := by rw [hrest]
  generalize stalledPart p s = v at hslot hport hreceiver
  obtain ⟨henable, hready, hline⟩ := (hs.core p).fits.held hstate
  have hgone : (s.port p).reservations - s.activeOn p = 0 := by rw [hs.reservations, Nat.sub_self]
  have hsettled (i : Fin 16) (h : (s.slot i).routedTo p = true) (r : Fin 4) : (v.slot i).routedTo r = false := by
    rw [hslot, if_pos h]
    exact routedTo_of_not_active (settledState_not_active ..) r
  have hkept (i : Fin 16) (h : ¬(s.slot i).routedTo p = true) : v.slot i = s.slot i := by rw [hslot, if_neg h]
  refine ⟨fun r => ?_, fun hout i => ?_, fun r => ?_⟩
  · rw [hport]
    split
    · rename_i hr
      subst hr
      rw [hgone, activeOn_eq_sum]
      refine (Finset.sum_eq_zero fun i _ => if_neg ?_).symm
      by_cases h : (s.slot i).routedTo r = true
      · simp [hsettled i h]
      · rwa [hkept i h]
    · rename_i hr
      rw [hs.reservations]
      refine (activeOn_congr fun i => ?_).symm
      by_cases h : (s.slot i).routedTo p = true
      · rw [hsettled i h]
        obtain ⟨x, hx⟩ : ∃ x, (s.slot i).context = some x := by
          rw [routedTo_eq] at h
          exact Option.isSome_iff_exists.mp (Option.isSome_of_any h)
        rw [routedTo_of_active hx] at h ⊢
        rw [beq_iff_eq] at h
        subst h
        exact (beq_eq_false_iff_ne.mpr (Ne.symm hr)).symm
      · rw [hkept i h]
  · rw [hslot]
    split
    · exact settledState_not_active ..
    · exact hs.idle (hreceiver ▸ hout) i
  · rw [hport]
    split
    · refine core_of_kept (hs.core p) ?_ rfl rfl (hs.core p).controlCount
        fun hrun => by simp [Timer.isRunning] at hrun
      simp [Port.Fits, henable, hready, hline, hgone]
    · exact hs.core r

/-- A line completes, and its port goes on (R112, R118). -/
theorem ported_complete {p : Fin 4} {x : Transmission} (hline : (s.port p).transmission = some x) (hs : s.Ported) :
    (nextState p (completedPart p x s)).Ported := by
  have hcore := hs.core p
  have hport := fun r => completedPart_port p r x s
  have hslot : ∀ i, (completedPart p x s).slot i = s.slot i := fun _ => rfl
  have hreceiver : (completedPart p x s).receiver = s.receiver := rfl
  obtain ⟨hstate, hready, hnone, -⟩ := completed_kept (s.port p) x
  obtain ⟨hceiling, htimeout, hcount, henable, hqueue, hreservations, htimer⟩ := completed_bounds (s.port p) x
  generalize completedPart p x s = v at hport hslot hreceiver ⊢
  have hown : v.port p = (s.port p).completed x := by rw [hport, if_pos rfl]
  have hbounds : (v.port p).ceiling ≤ 1024 ∧ (v.port p).holdTimeout ≤ 1000 ∧ (v.port p).controlCount ≤ 4 := by
    rw [hown, hceiling, htimeout, hcount]
    exact hcore.bounds
  have hother (r : Fin 4) (hr : r ≠ p) : (v.port r).Core := by rw [hport, if_neg hr]; exact hs.core r
  have hbalanced (r : Fin 4) : (v.port r).reservations = v.activeOn r := by
    rw [activeOn_congr (s := s) fun i => by rw [hslot], ← hs.reservations, hport]
    split
    · rename_i hr; subst hr; exact hreservations
    · rfl
  have hidle (hout : v.receiver.state ≠ .inFrame) : v.idle := fun i => by
    rw [hslot]
    exact hs.idle (hreceiver ▸ hout) i
  rcases hcore.fits.of_line (by rw [hline]; exact nofun) with hsending | hrecovering
  · rw [nextState_of_sending (by rw [hown, hstate, hsending])]
    have hfits := fits_rest (q := v.port p) (by rw [hown, henable]; exact (hcore.fits.sending hsending).1)
      (by rw [hown]; exact hnone)
    have haccepts : ({ v.port p with state := (v.port p).restState } : Port).accepting = true := by
      rw [accepting_iff]
      unfold Port.restState
      dsimp only
      split
      · exact .inl rfl
      · exact .inr (.inr rfl)
    refine ⟨fun r => ?_, hidle, ?_⟩
    · exact (setPort_field (·.reservations) (by rfl) r).trans (hbalanced r)
    · intro r
      rw [port_setPort]
      split
      · exact core_of_accepting hfits haccepts hbounds.1 hbounds.2.1 hbounds.2.2
      · rename_i hr; exact hother r hr
  · obtain ⟨hon, hempty, hzero, -⟩ := hcore.fits.recovering hrecovering
    rw [nextState_of_recovering (by rw [hown, hstate, hrecovering])]
    refine ported_endRecoveryIfDone hbalanced hidle hother (fun _ _ => ?_) fun hmore => ?_
    · exact core_recovered (by rw [hown, henable, hon]) (by rw [hown]; exact hnone) hbounds
    · rw [hown] at hmore ⊢
      refine core_of_kept hcore ?_ hceiling htimeout (hcount ▸ hcore.controlCount) fun hrun => ?_
      · unfold Port.Fits
        rw [hstate, hrecovering]
        exact ⟨henable.trans hon, hqueue.trans hempty, hreservations.trans hzero,
          .inl fun hset => hmore ⟨hset, hnone⟩⟩
      · rw [htimer] at hrun
        have := (hcore.timed hrecovering hrun).2
        rw [hline] at this
        cases this

theorem PortEvent.ported {e : RowEvent} (hs : s.Ported) (h : PortEvent e s u) : u.Ported := by
  cases h with
  | rise p _ _ hstate =>
    refine ported_setPort ?_ (core_rise (hs.core p) hstate) hs
    unfold Port.rise
    split <;> rfl
  | recover p _ _ hstate => exact ported_recover hstate hs
  | fall p _ hready =>
    refine ported_setPort ?_ (core_fall (hs.core p) hready) hs
    rw [Port.fall_eq]
  | stall p _ hstate => exact ported_reportStall p (ported_stalledPart hstate hs)
  | stallAgain p _ hstate hrun =>
    exact ported_reportStall p (ported_setPort rfl (core_stallAgain (hs.core p) hstate hrun) hs)
  | complete p x _ hline => exact ported_complete hline hs

/-! ### The other commands -/

/-- SET_PORT disables a port only when nothing of it is in use (R119, R120). -/
theorem core_applySettings {p : Fin 4} {a : PortSettings} (hs : s.Ported) (hceiling : a.ceiling ≤ 1024)
    (htimeout : a.holdTimeout ≤ 1000) (hfree : a.enable = false → (s.port p).enable = true → s.portInUse p = false) :
    ((s.port p).applySettings a).Core := by
  have hcore := hs.core p
  have hrun (h : ((s.port p).applySettings a).holdTimer.isRunning = true) : (s.port p).holdTimer.isRunning = true := by
    unfold Port.applySettings at h
    dsimp only at h
    split at h
    · rename_i hboth
      exact (Bool.and_eq_true_iff.mp hboth).1
    · cases h
  cases henable : a.enable with
  | false =>
    have hempty : (s.port p).queue = [] ∧ (s.port p).transmission = none ∧ (s.port p).openSet = 0 ∧
        (s.port p).reservations = 0 := by
      cases hon : (s.port p).enable with
      | true =>
        have hunused := hfree henable hon
        simp only [State.portInUse, Bool.or_eq_false_iff, decide_eq_false_iff_not, Nat.not_lt, Nat.le_zero_eq,
          bne_eq_false_iff_eq] at hunused
        obtain ⟨⟨⟨⟨-, hqueued⟩, hzero⟩, hset⟩, hline⟩ := hunused
        have hqueue : (s.port p).queue = [] := by
          rw [Port.queued, List.length_eq_zero_iff, Port.departures, List.append_eq_nil_iff] at hqueued
          exact hqueued.2
        exact ⟨hqueue, by simpa using hline, hset, hzero⟩
      | false =>
        have hdisabled : (s.port p).state = .disabled := by
          by_contra hne
          rw [hcore.fits.enabled hne] at hon
          cases hon
        obtain ⟨-, hqueue, hline, hset, hzero⟩ := hcore.fits.disabled hdisabled
        exact ⟨hqueue, hline, hset, hzero⟩
    obtain ⟨hqueue, hline, hset, hzero⟩ := hempty
    have hstate : ((s.port p).applySettings a).state = .disabled := by simp [Port.applySettings, henable]
    refine ⟨?_, hceiling, htimeout, hcore.controlCount, fun h => ?_, fun h => ?_⟩
    · simp [Port.Fits, Port.applySettings, henable, hqueue, hline, hset, hzero]
    all_goals rw [hstate] at h; cases h
  | true =>
    by_cases hdisabled : (s.port p).state = .disabled
    · obtain ⟨-, -, hline, -⟩ := hcore.fits.disabled hdisabled
      have hrest : ({ s.port p with enable := true, state := (s.port p).restState } : Port).Fits :=
        fits_rest (q := { s.port p with enable := true }) rfl hline
      have hstate : ((s.port p).applySettings a).state = (s.port p).restState := by
        simp [Port.applySettings, henable, hdisabled]
      have haccepts : ((s.port p).applySettings a).accepting = true := by
        rw [accepting_iff, hstate]
        unfold Port.restState
        split
        · exact .inl rfl
        · exact .inr (.inr rfl)
      refine core_of_accepting ?_ haccepts hceiling htimeout hcore.controlCount
      unfold Port.Fits
      rw [hstate]
      unfold Port.Fits at hrest
      simpa only [Port.applySettings, henable] using hrest
    · have hstate : ((s.port p).applySettings a).state = (s.port p).state := by
        simp [Port.applySettings, henable, hdisabled]
      refine ⟨?_, hceiling, htimeout, hcore.controlCount, fun h hrunning => ?_, fun h => ?_⟩
      · have hon := hcore.fits.enabled hdisabled
        have hfits := hcore.fits
        unfold Port.Fits at hfits ⊢
        rw [hstate]
        rw [hon] at hfits
        simpa only [Port.applySettings, henable] using hfits
      · exact hcore.timed (hstate ▸ h) (hrun hrunning)
      · by_contra hno
        have := hrun (by simpa using hno)
        rw [hcore.untimed (hstate ▸ h)] at this
        cases this

theorem ported_setPortCommand {a : PortSettings} (hceiling : a.ceiling ≤ 1024) (htimeout : a.holdTimeout ≤ 1000)
    (hs : s.Ported) : (setPort a s).1.Ported := by
  unfold setPort
  split
  · exact hs
  · split
    · exact hs
    · rename_i huse
      refine ported_setPort (by rfl) (core_applySettings hs hceiling htimeout fun hoff hon => ?_) hs
      by_contra hin
      exact huse ⟨hoff, hon, Bool.eq_true_of_not_eq_false hin⟩

/-- A port after a RESTART (R125). -/
theorem core_restarted {n : Nat} (h : q.Core) (hn : n = 0) : ({ q.restarted with reservations := n } : Port).Core := by
  subst hn
  refine core_of_kept h ?_ rfl rfl (Nat.zero_le _) fun hrun => by simp [Port.restarted, Timer.isRunning] at hrun
  by_cases hdisabled : q.state = .disabled
  · obtain ⟨henable, -, hline, hset, -⟩ := h.fits.disabled hdisabled
    simp [Port.Fits, Port.restarted, Port.restartState, hdisabled, henable, hline, hset]
  · have henable := h.fits.enabled hdisabled
    by_cases hleft : q.openSet ≠ 0 ∨ q.transmission ≠ none
    · have hstate : q.restartState = .recovering := by
        rw [restartState_eq, if_neg hdisabled, if_pos hleft]
      simp only [Port.Fits, Port.restarted, hstate]
      exact ⟨henable, trivial, trivial, hleft⟩
    · have hline : q.transmission = none := by
        by_contra hsome
        exact hleft (.inr hsome)
      have hstate : q.restartState = q.restState := by
        rw [restartState_eq, if_neg hdisabled, if_neg hleft, Port.restState]
      have hrest : ({ q with queue := [], state := q.restState, reservations := 0 } : Port).Fits :=
        fits_rest (q := { q with queue := [], reservations := 0 }) henable hline
      unfold Port.Fits at hrest ⊢
      simpa only [Port.restarted, hstate] using hrest

/-- A port after a hard reset (R126). -/
theorem core_hardReset (q : Port) : q.hardReset.Core := by
  have hfits : q.hardReset.Fits ∧ q.hardReset.accepting = true := by
    rw [accepting_iff]
    unfold Port.hardReset Port.Fits
    cases hline : q.transmission with
    | some x => simp [Port.reset]
    | none => cases hready : q.ready <;> simp [Port.reset]
  exact core_of_accepting hfits.1 hfits.2 (by simp [Port.hardReset, Port.reset]) (by simp [Port.hardReset, Port.reset])
    (by simp [Port.hardReset, Port.reset])

theorem ported_restart (hs : s.Ported) : (restartPart s).1.Ported := by
  refine ported_of_idle (fun i => ?_) (fun p => ?_) fun p => ?_
  · rw [restartPart_slot]
    exact settledState_not_active ..
  · rw [restartPart_port]
    exact (congrArg (· - s.activeOn p) (hs.reservations p)).trans (Nat.sub_self _)
  · rw [restartPart_port]
    exact core_restarted (hs.core p) ((congrArg (· - s.activeOn p) (hs.reservations p)).trans (Nat.sub_self _))

/-- While no slot is ACTIVE the slots may be rewritten, none becoming ACTIVE. -/
theorem ported_of_rest_idle (hidle : s.idle) (hafter : u.idle) (hports : ∀ p, u.port p = s.port p) (hs : s.Ported) :
    u.Ported :=
  ported_of_idle hafter (fun p => by rw [hports]; exact hs.reservations_of_idle hidle p)
    fun p => by rw [hports]; exact hs.core p

theorem ported_startFrame {depth : BitVec 2} {payload : List Byte} {r : Receiver}
    (hr : r = s.receiver ∧ s.receiver.state ≠ .inFrame ∨ r = s.receiver.abort ∧ s.idle) (hs : s.Ported) :
    (switchBank (s.setReceiver (r.startFrame depth payload))).Ported := by
  have hidle : s.idle := by
    rcases hr with ⟨-, hout⟩ | ⟨-, hidle⟩
    · exact hs.idle hout
    · exact hidle
  have hslot := switchBank_slot (s.setReceiver (r.startFrame depth payload))
  obtain ⟨slots, notify, hrest, -⟩ := switchBank_rest (s.setReceiver (r.startFrame depth payload))
  generalize switchBank (s.setReceiver (r.startFrame depth payload)) = v at hslot hrest ⊢
  refine ported_of_rest_idle hidle (fun i => ?_) (fun p => by rw [hrest]; rfl) hs
  rw [hslot]
  split
  · exact settledState_not_active ..
  · exact hidle i

theorem ported_writeEntry (b : Fin 4) (i : Fin 16) (e : Entry) (hs : s.Ported) : (writeEntry b i e s).1.Ported := by
  unfold writeEntry writeActive
  split
  · split
    · exact hs
    · rename_i hout
      split
      · exact hs
      · have hidle := hs.idle hout
        refine ported_of_rest_idle (s := s) hidle (fun j => ?_) (fun _ => rfl) hs
        refine forall_slot_setSlot (s := s.setEntry s.activeBank i e) (Q := fun _ t => t.state.isActive = false)
          hidle ?_ j
        exact settledState_not_active ..
  · split
    · exact hs
    · exact ⟨hs.reservations, hs.idle, hs.core⟩

theorem act_ported (hs : s.Ported) (h : Act c s u) : u.Ported := by
  cases h with
  | window h => exact h.ported hs
  | receiver r lock _ h =>
    refine ⟨hs.reservations, fun hout => ?_, hs.core⟩
    rcases h.idle hout with hbefore | hidle
    · exact hs.idle hbefore
    · exact hidle
  | respond | enterSilent | notify | line => exact ⟨hs.reservations, hs.idle, hs.core⟩
  | leaveSilent => rw [leaveSilent_eq]; exact ⟨hs.reservations, hs.idle, hs.core⟩
  | clearSlot i => exact ported_setSlot (routedTo_of_state (by rfl)) (by rfl) hs
  | clearPort p =>
    exact ported_setPort (by rfl) ((hs.core p).of_same rfl rfl rfl rfl rfl rfl rfl rfl rfl rfl rfl) hs
  | startFrame depth payload r _ _ hr => exact ported_startFrame hr hs
  | event e _ _ _ hp heffect => exact (portEvent_of_eventEffect hp heffect).ported hs
  | restart => exact ported_restart hs
  | writeEntry b i e => exact ported_writeEntry b i e hs
  | selectBank b =>
    obtain ⟨pending, hrest⟩ := selectBank_rest b s
    rw [hrest]
    exact ⟨hs.reservations, hs.idle, hs.core⟩
  | setPort a _ _ hceiling htimeout => exact ported_setPortCommand hceiling htimeout hs
  | hardReset m1 m0 =>
    obtain ⟨ports, lines, hports, -, hrest⟩ := hardReset_rest m1 m0 s
    have hport : ∀ p, (hardReset m1 m0 s).port p = (s.port p).hardReset := fun p => by rw [hrest]; exact hports p
    refine ported_of_idle (fun i => ?_) (fun p => ?_) fun p => ?_
    · rw [hrest]
      exact congrArg (fun t : Slot => t.state.isActive) (reset_slot i)
    · rw [hport]; rfl
    · rw [hport]; exact core_hardReset _

/-! ### The law, and what it says of work waiting -/

theorem ported_of_laws (hwindow : s.WindowLaw) (hports : s.PortLaw) : s.Ported := by
  obtain ⟨hreservations, -, hidle⟩ := hwindow
  refine ⟨hreservations, hidle, fun p => ?_⟩
  obtain ⟨hconsistent, hceiling, htimeout, hcount, -, htimer⟩ := hports p
  refine ⟨(consistent_iff _).mp hconsistent, hceiling, htimeout, hcount, fun hs hrun => ?_, fun hs => ?_⟩
  · exact (holdCondition_recovering hs).mp (htimer.mp hrun).1
  · by_contra hrun
    have hcondition := (htimer.mp (by simpa using hrun)).1
    simp only [State.holdCondition, ports_eq_port, hs, Bool.false_eq_true] at hcondition

theorem portLaw_settle (hs : s.Ported) : (settle s).PortLaw := by
  have hported := ported_settle hs
  have hends := stepEnds_settle s
  generalize settle s = t at hported hends
  intro p
  have hcore := hported.core p
  exact ⟨(consistent_iff _).mpr hcore.fits, hcore.ceiling, hcore.holdTimeout, hcore.controlCount,
    hends.nothing_waits p, hends.holdTimer p⟩

theorem workWaiting_iff (s : State) (p : Fin 4) : s.workWaiting p = true ↔
    (s.port p).queue ≠ [] ∨ (p = s.mgmt ∧ (s.responses ≠ [] ∨ s.notify.offer ≠ none)) := by
  simp only [State.workWaiting, ports_eq_port]
  simp [Option.isSome_iff_ne_none]

theorem holdCondition_iff (s : State) (p : Fin 4) : s.holdCondition p = true ↔
    ((s.port p).state = .held ∧ s.workWaiting p = true) ∨
    ((s.port p).state = .recovering ∧ (s.port p).ready = false ∧ (s.port p).transmission = none) := by
  cases hs : (s.port p).state with
  | recovering => simp [holdCondition_recovering hs]
  | disabled | idle | sending | held | stalled => simp only [State.holdCondition, ports_eq_port, hs]; simp

/-- A port has a line to begin unless nothing waits on it (R111, R122). -/
theorem nextSource_eq_none_iff (s : State) (p : Fin 4) : nextSource s p = none ↔
    (s.port p).departureOffer = none ∧ (p = s.mgmt → s.responses = [] ∧ s.notify.offer = none) := by
  unfold nextSource
  by_cases hp : p = s.mgmt
  · rw [if_pos hp]
    unfold arbiterChoice
    dsimp only
    split <;> simp [hp, and_comm, and_assoc]
  · simp [hp]

end Sys2Proof.Machine
end

section
/-! The statement about the law of the egress ports, settled. -/

namespace Sys2Proof.Machine

/-- What a port state law says once the four transmitters have settled. -/
theorem portLaw_of_step {s t : State} (hwindow : s.WindowLaw) (hports : s.PortLaw) (h : step s = .next t) :
    t.PortLaw := by
  unfold step at h
  split at h
  · exact Host.Outcome.next.inj h ▸ hports
  · rename_i c l _
    rcases exec_cases h with rfl | ⟨u, hu, rfl⟩
    · exact hports
    · have hchain : ∀ u, Acts c { s with pending := l } u → u.Ported := fun u hu => by
        induction hu with
        | refl => exact ported_of_laws hwindow hports
        | tail _ hlast ih => exact act_ported ih hlast
      exact portLaw_settle (hchain u hu)

/-- Settles O12: reservations and port states move together, and every step ends with the transmitters settled. -/
theorem everyStepKeepsThePorts : Obligations.EveryStepKeepsThePorts := by
  intro s t hwindow hports h
  have ht := portLaw_of_step hwindow hports h
  refine ⟨ht, fun p => ?_⟩
  obtain ⟨hconsistent, -, -, -, hbegin, htimer⟩ := ht p
  have hfits := (consistent_iff _).mp hconsistent
  refine ⟨?_, fun hstate hwork => ?_, fun hstate hready hline => ?_⟩
  · rw [htimer, holdCondition_iff, workWaiting_iff, and_comm]
  · obtain ⟨-, hready, hline⟩ := hfits.idle hstate
    have hnone := (nextSource_eq_none_iff t p).mp (hbegin ((mayBegin_iff _).mpr ⟨.inl hstate, hready, hline⟩))
    obtain ⟨hdeparture, hcontrol⟩ := hnone
    rcases hwork with hqueue | ⟨hp, hresponses | hoffer⟩
    · rw [Port.departureOffer, if_neg (by rw [hstate]; exact nofun), Option.map_eq_none_iff,
        List.head?_eq_none_iff] at hdeparture
      exact hqueue hdeparture
    · exact hresponses (hcontrol hp).1
    · exact hoffer (hcontrol hp).2
  · obtain ⟨-, -, -, hleft⟩ := hfits.recovering hstate
    have hset := hleft.resolve_right (not_not_intro hline)
    obtain ⟨hdeparture, -⟩ :=
      (nextSource_eq_none_iff t p).mp (hbegin ((mayBegin_iff _).mpr ⟨.inr hstate, hready, hline⟩))
    obtain ⟨id, hid⟩ := exists_lowestStream hset
    rw [Port.departureOffer, if_pos hstate, hid] at hdeparture
    cases hdeparture

end Sys2Proof.Machine
end

section
/-! SUPPORT. Commands on channel 0, said once: the owner that serves each code and the arguments it takes, how a command
ends that is refused or served, and the codes that the argument bytes spell. -/

namespace Sys2Proof.Machine

/-! ### The owner of each code (R139, Table 1.11) -/

/-- What the owner of a code does with argument bytes, where they are of the length it requires; a code outside the summary
is answered by the interpreter itself. -/
def actionOf (wasSilent : Bool) (code : Byte) (args : List Byte) : Option (State → State × Reply) :=
  if code = 0x01 then echoAction args
  else if code = 0x10 then writeEntryAction args
  else if code = 0x11 then readEntryAction args
  else if code = 0x12 then selectBankAction args
  else if code = 0x20 then armAction args
  else if code = 0x21 then disarmAction args
  else if code = 0x30 then setPortAction args
  else if code = 0x40 then setLineAction args
  else if code = 0x50 then setIngressAction args
  else if code = 0x60 then setEventAction args
  else if code = 0x61 then setNotifyAction args
  else if code = 0x62 then ackAction args
  else if code = 0x70 then readStatusAction wasSilent args
  else if code = 0x71 then clearCountersAction args
  else if code = 0x7f then restartAction args
  else some (answer (.plain .unknownCommand))

theorem exec_ite {p : Prop} [Decidable p] {tag code : Byte} {c d : Instr} {a b : Option (State → State × Reply)} {s : State}
    (hthen : p → exec c s = conclude s (takeCommand tag code a s))
    (helse : exec d s = conclude s (takeCommand tag code b s)) :
    exec (if p then c else d) s = conclude s (takeCommand tag code (if p then a else b) s) := by
  by_cases h : p
  · rw [if_pos h, if_pos h]; exact hthen h
  · rw [if_neg h, if_neg h]; exact helse

/-- Every command line is a taking of its code's owner. -/
theorem exec_commandOf (tag code : Byte) (args : List Byte) (s : State) :
    exec (commandOf tag code args) s =
      conclude s (takeCommand tag code (actionOf s.notify.silent code args) s) := by
  unfold commandOf actionOf
  iterate 15 refine exec_ite (fun h => by subst h; rfl) ?_
  rfl

/-- A record of another length than twelve bytes is none. -/
theorem rawRecord_of_length {l : List Byte} (h : l.length ≠ 12) : rawRecord l = none := by
  unfold rawRecord
  split
  · exact absurd rfl h
  · rfl

theorem writeEntryAction_of_length {args : List Byte} (h : args.length ≠ 14) : writeEntryAction args = none := by
  unfold writeEntryAction
  split
  · rename_i b i record
    rw [rawRecord_of_length fun hr => h (by simp [hr]), Option.map_none]
  · rfl

/-- The number of argument bytes that each code requires, ECHO aside (R15). -/
def argumentLengths : List (Byte × Nat) :=
  [(0x10, 14), (0x11, 2), (0x12, 1), (0x20, 3), (0x21, 3), (0x30, 6), (0x40, 6), (0x50, 1), (0x60, 3), (0x61, 2),
    (0x62, 1), (0x70, 1), (0x71, 0), (0x7f, 0)]

/-- No owner acts on arguments of another length than its code requires (R139). -/
theorem actionOf_of_length {wasSilent : Bool} {code : Byte} {n : Nat} {args : List Byte}
    (hcode : (code, n) ∈ argumentLengths) (h : args.length ≠ n) : actionOf wasSilent code args = none := by
  simp only [argumentLengths, List.mem_cons, List.not_mem_nil, or_false, Prod.mk.injEq] at hcode
  rcases hcode with ⟨rfl, rfl⟩ | hcode
  · exact writeEntryAction_of_length h
  · rcases hcode with ⟨rfl, rfl⟩ | ⟨rfl, rfl⟩ | ⟨rfl, rfl⟩ | ⟨rfl, rfl⟩ | ⟨rfl, rfl⟩ | ⟨rfl, rfl⟩ | ⟨rfl, rfl⟩ |
      ⟨rfl, rfl⟩ | ⟨rfl, rfl⟩ | ⟨rfl, rfl⟩ | ⟨rfl, rfl⟩ | ⟨rfl, rfl⟩ | ⟨rfl, rfl⟩
    all_goals
      simp (decide := true) only [actionOf, if_true, if_false, readEntryAction.eq_def, selectBankAction.eq_def,
        armAction.eq_def, disarmAction.eq_def, setPortAction.eq_def, setLineAction.eq_def, setIngressAction.eq_def,
        setEventAction.eq_def, setNotifyAction.eq_def, ackAction.eq_def, readStatusAction.eq_def,
        clearCountersAction.eq_def, restartAction.eq_def]
      split
      · exact absurd rfl h
      · rfl

/-! ### Owners that check their arguments (R153) -/

section
variable {c : Instr} {tag code : Byte} {s u : State} {α : Type} {checked : Except Byte α}
  {serve : α → State → State × Reply}

/-- A command whose arguments are in range ends as its owner serves it. -/
theorem ends_of_ok {a : α} {r : Reply}
    (hexec : exec c s = conclude s (takeCommand tag code (some (withArguments checked serve)) s)) (hs : s.CanTake)
    (hchecked : checked = .ok a) (hserve : serve a s.taken = (u, r)) :
    ∃ t, exec c s = .next t ∧ StepEnds (placeResponse ⟨tag, code, r⟩ u) t :=
  ends_of_reply hexec hs (by rw [hchecked]; exact hserve)

/-- A command with a field out of range is refused, and changes no more than its taking does. -/
theorem ends_of_error {field : Byte}
    (hexec : exec c s = conclude s (takeCommand tag code (some (withArguments checked serve)) s)) (hs : s.CanTake)
    (hchecked : checked = .error field) :
    ∃ t, exec c s = .next t ∧ StepEnds (placeResponse ⟨tag, code, ⟨.badArgument, field, []⟩⟩ s.taken) t :=
  ends_of_reply hexec hs (by rw [hchecked]; rfl)

/-- A command whose arguments are of another length than its code requires. -/
theorem ends_of_length (hexec : exec c s = conclude s (takeCommand tag code none s)) (hs : s.CanTake) :
    ∃ t, exec c s = .next t ∧ StepEnds (placeResponse ⟨tag, code, ⟨.badLength, 0, []⟩⟩ s.taken) t :=
  ends_of_effect hexec (takeCommand_taken hs tag code none)

end

theorem require_some {α : Type} (field : Byte) (a : α) : require field (some a) = .ok a := rfl

theorem ok_bind {α β : Type} (a : α) (f : α → Except Byte β) : (Except.ok a >>= f) = f a := rfl

theorem fin16Of_of_lt {b : Byte} (hb : b.toNat < 16) : fin16Of b = some ⟨b.toNat, hb⟩ := dif_pos hb

theorem fin16Of_of_le {b : Byte} (hb : 16 ≤ b.toNat) : fin16Of b = none := dif_neg (Nat.not_lt.mpr hb)

theorem flagOf_boolCode (b : Bool) : flagOf (boolCode b) = some b := by cases b <;> rfl

end Sys2Proof.Machine
end

section
/-! The statements about taking and losing commands, ECHO, READ_ENTRY and READ_STATUS, settled. -/

namespace Sys2Proof.Machine

/-- Settles O30: the owner of ECHO returns its arguments and leaves the part as the taking has made it. -/
theorem echoReturnsItsArguments : Obligations.EchoReturnsItsArguments := by
  intro tag args s hs hlength
  have hexec : exec (.echo tag args) s = conclude s (takeCommand tag 0x01 (some (answer ⟨.done, 0, args⟩)) s) := by
    change conclude s (takeCommand tag 0x01 (echoAction args) s) = _
    rw [echoAction, if_pos hlength]
  obtain ⟨t, ht, hends⟩ := ends_of_reply hexec hs (u := s.taken) (r := ⟨.done, 0, args⟩) rfl
  refine ⟨t, ht, ?_⟩
  simp only [State.taken, leaveSilent_eq, handOff_eq, placeResponse] at hends
  exact hends

theorem exec_unknownCommand (tag code : Byte) (args : List Byte) (s : State) :
    exec (.unknownCommand tag code args) s =
      conclude s (takeCommand tag code (some (answer (.plain .unknownCommand))) s) := rfl

/-- Settles O42: no owner acts on a code outside the summary or on arguments of another length. -/
theorem unknownCodesAndBadLengthsAreAnswered : Obligations.UnknownCodesAndBadLengthsAreAnswered := by
  refine ⟨fun tag code args s hs => ends_of_reply (exec_unknownCommand ..) hs rfl, fun tag code args s hs hlength => ?_⟩
  have hnone : actionOf s.notify.silent code args = none := by
    rcases hlength with ⟨rfl, hlong⟩ | ⟨n, hcode, hlength⟩
    · exact if_neg (Nat.not_le.mpr hlong)
    · exact actionOf_of_length hcode hlength
  exact ends_of_length (by rw [exec_commandOf, hnone]) hs

/-- The hand-off of a line moves neither the frame number nor a class setting. -/
theorem handOff_eventOf (s : State) (c : EventClass) (sub : Subject) (hi lo : Byte) :
    (handOff s).eventOf c sub hi lo = s.eventOf c sub hi lo :=
  eventOf_congr (by rw [handOff_eq]) (by rw [handOff_eq]) ..

theorem raiseEvent_handOff (c : EventClass) (sub : Subject) (hi lo : Byte) (s : State) :
    raiseEvent c sub hi lo (handOff s) =
      { handOff s with notify := s.notify.takeAll [s.eventOf c sub hi lo] } := by
  rw [raiseEvent_eq, handOff_eventOf, show (handOff s).notify = s.notify by rw [handOff_eq]]

theorem exec_shortCommandLine (payload : List Byte) (s : State) :
    exec (.shortCommandLine payload) s = conclude s (shortCommand s) := rfl

/-- Settles O43: a command that finds no response place, or has no code, is handed off and reported. -/
theorem lostCommandsAreReportedOnly : Obligations.LostCommandsAreReportedOnly := by
  refine ⟨fun tag code args s hlines hfull => ends_of_effect (exec_commandOf ..) ?_,
    fun payload s hlines => ends_of_effect (exec_shortCommandLine ..) ?_⟩
  · rw [takeCommand_full hlines hfull, raiseEvent_handOff]
  · rw [shortCommand, if_neg hlines, raiseEvent_handOff]

/-! ### READ_ENTRY and READ_STATUS (R51, R146) -/

theorem exec_readEntry (tag b i : Byte) (s : State) :
    exec (.readEntry tag [b, i]) s =
      conclude s (takeCommand tag 0x11 (some (withArguments (checkRead b i) fun a => readEntry a.1 a.2)) s) := rfl

theorem checkRead_ok {b i : Byte} (hb : b.toNat < 4) (hi : i.toNat < 16) :
    checkRead b i = .ok (⟨b.toNat, hb⟩, ⟨i.toNat, hi⟩) := by
  rw [checkRead, fin4Of_of_lt hb, fin16Of_of_lt hi]
  rfl

theorem checkRead_error {b i : Byte} (h : 4 ≤ b.toNat ∨ 16 ≤ i.toNat) :
    checkRead b i = .error (if 4 ≤ b.toNat then 1 else 2) := by
  by_cases hb : 4 ≤ b.toNat
  · rw [checkRead, fin4Of_of_le hb, if_pos hb]
    rfl
  · rw [checkRead, fin4Of_of_lt (Nat.not_le.mp hb), fin16Of_of_le (h.resolve_left hb), if_neg hb]
    rfl

theorem exec_readStatus (tag code : Byte) (s : State) :
    exec (.readStatus tag [code]) s = conclude s (takeCommand tag 0x70 (some (readStatus s.notify.silent code)) s) := rfl

/-- The sections of READ_STATUS with their snapshots (Table 1.17). -/
def sectionsOf (wasSilent : Bool) (s : State) : List (Byte × List Byte) :=
  [(0x00, ingressSnapshot s), (0x01, tableSnapshot s), (0x02, slotsSnapshot s), (0x03, linesSnapshot s),
    (0x04, notifySnapshot wasSilent s), (0x10, portSnapshot 0 s), (0x11, portSnapshot 1 s), (0x12, portSnapshot 2 s),
    (0x13, portSnapshot 3 s)]

theorem snapshot_of_mem {wasSilent : Bool} {s : State} {code : Byte} {data : List Byte}
    (h : (code, data) ∈ sectionsOf wasSilent s) : snapshot wasSilent code s = some data := by
  simp only [sectionsOf, List.mem_cons, List.not_mem_nil, or_false, Prod.mk.injEq] at h
  rcases h with ⟨rfl, rfl⟩ | ⟨rfl, rfl⟩ | ⟨rfl, rfl⟩ | ⟨rfl, rfl⟩ | ⟨rfl, rfl⟩ | ⟨rfl, rfl⟩ | ⟨rfl, rfl⟩ | ⟨rfl, rfl⟩ |
    ⟨rfl, rfl⟩
  all_goals rfl

theorem snapshot_of_not_mem {wasSilent : Bool} {s : State} {code : Byte}
    (h : code ∉ ([0x00, 0x01, 0x02, 0x03, 0x04, 0x10, 0x11, 0x12, 0x13] : List Byte)) :
    snapshot wasSilent code s = none := by
  simp only [List.mem_cons, List.not_mem_nil, or_false, not_or] at h
  obtain ⟨h0, h1, h2, h3, h4, h5, h6, h7, h8⟩ := h
  simp only [snapshot, h0, h1, h2, h3, h4, h5, h6, h7, h8, if_false]

theorem length_slotsSnapshot (s : State) : (slotsSnapshot s).length = 144 := by
  have hslot (i : Fin 16) : (slotSnapshot s.slots[i]).length = 9 := rfl
  rw [slotsSnapshot, List.length_flatMap, List.map_congr_left fun i _ => hslot i]
  rfl

theorem length_linesSnapshot (s : State) : (linesSnapshot s).length = 25 := by
  have hline (n : Fin 4) : (lineSnapshot s s.lines[n]).length = 6 := rfl
  rw [linesSnapshot, List.length_append, List.length_flatMap, List.map_congr_left fun n _ => hline n]
  rfl

theorem length_notifySnapshot (wasSilent : Bool) (s : State) : (notifySnapshot wasSilent s).length = 29 := by
  rw [notifySnapshot, List.length_append, List.length_flatMap]
  rfl

/-- The length that Table 1.17 gives each section. -/
theorem length_of_mem {wasSilent : Bool} {s : State} {code : Byte} {data : List Byte}
    (h : (code, data) ∈ sectionsOf wasSilent s) :
    (code, data.length) ∈ ([(0x00, 16), (0x01, 2), (0x02, 144), (0x03, 25), (0x04, 29), (0x10, 18), (0x11, 18),
      (0x12, 18), (0x13, 18)] : List (Byte × Nat)) := by
  have hport (p : Fin 4) : (portSnapshot p s).length = 18 := rfl
  have hingress : (ingressSnapshot s).length = 16 := rfl
  have htable : (tableSnapshot s).length = 2 := rfl
  simp only [sectionsOf, List.mem_cons, List.not_mem_nil, or_false, Prod.mk.injEq] at h
  rcases h with ⟨rfl, rfl⟩ | ⟨rfl, rfl⟩ | ⟨rfl, rfl⟩ | ⟨rfl, rfl⟩ | ⟨rfl, rfl⟩ | ⟨rfl, rfl⟩ | ⟨rfl, rfl⟩ | ⟨rfl, rfl⟩ |
    ⟨rfl, rfl⟩
  all_goals simp [hport, hingress, htable, length_slotsSnapshot, length_linesSnapshot, length_notifySnapshot]

/-- Settles O31: both commands answer from the part as the taking has made it. -/
theorem readCommandsReturnWhatTheyRead : Obligations.ReadCommandsReturnWhatTheyRead := by
  refine ⟨fun tag b i s hs => ⟨fun hb hi => ?_, fun hout => ends_of_error (exec_readEntry ..) hs (checkRead_error hout)⟩,
    fun tag s hs => ⟨fun code data hmem => ⟨?_, length_of_mem hmem⟩, fun code hnot => ?_⟩⟩
  · refine ends_of_ok (exec_readEntry ..) hs (checkRead_ok hb hi) ?_
    simp only [readEntry, taken_entry]
  · exact ends_of_reply (exec_readStatus ..) hs (by rw [readStatus, snapshot_of_mem hmem])
  · exact ends_of_reply (exec_readStatus ..) hs (by rw [readStatus, snapshot_of_not_mem hnot]; rfl)

end Sys2Proof.Machine
end

section
/-! The statements about SET_INGRESS, SET_EVENT, SET_NOTIFY and ACK, settled. -/

namespace Sys2Proof.Machine

/-! ### SET_INGRESS (R39) -/

theorem exec_setIngress (tag n : Byte) (s : State) :
    exec (.setIngress tag [n]) s = conclude s
      (takeCommand tag 0x50 (some (withArguments (require 1 (inRange 1 255 n.toNat)) setIngressTimeout)) s) := rfl

/-- A byte other than 0 is a timeout or an interval in range. -/
theorem inRange_byte {n : Byte} (h : n ≠ 0) : inRange 1 255 n.toNat = some n.toNat :=
  inRange_of_mem (by bv_omega) (by omega)

theorem inRange_zero {n : Byte} (high : Nat) (h : n = 0) : inRange 1 high n.toNat = none := by
  subst h
  exact inRange_of_not_mem (by simp)

/-! ### SET_EVENT (R155) -/

theorem exec_setEvent (tag c e p : Byte) (s : State) :
    exec (.setEvent tag [c, e, p]) s = conclude s
      (takeCommand tag 0x60 (some (withArguments (checkEvent c e p) setEvent)) s) := rfl

theorem ofCode_code (cls : EventClass) : EventClass.ofCode cls.code = some cls := by cases cls <;> rfl

/-- The codes of the classes run from 1 to 11 (Table 1.15). -/
theorem code_toNat (cls : EventClass) : cls.code.toNat = cls.index.val + 1 := by cases cls <;> rfl

theorem ofCode_of_not_mem {c : Byte} (h : c.toNat = 0 ∨ 11 < c.toNat) : EventClass.ofCode c = none := by
  rw [EventClass.ofCode, List.find?_eq_none]
  intro cls _ hcode
  have hcode := congrArg BitVec.toNat (of_decide_eq_true hcode)
  rw [code_toNat] at hcode
  omega

theorem exists_class {c : Byte} (h : ¬(c.toNat = 0 ∨ 11 < c.toNat)) : ∃ cls, EventClass.ofCode c = some cls := by
  have hindex : ∀ i : Fin 11, ∃ cls ∈ allClasses, cls.index = i := by decide
  obtain ⟨cls, -, hcls⟩ := hindex ⟨c.toNat - 1, by omega⟩
  have hcode : c = cls.code := by
    apply BitVec.eq_of_toNat_eq
    rw [code_toNat, hcls]
    dsimp only
    omega
  exact ⟨cls, hcode ▸ ofCode_code cls⟩

theorem priorityOf_code (p : Priority) : priorityOf p.code = some p := by cases p <;> rfl

theorem priorityOf_of_lt {p : Byte} (h : 1 < p.toNat) : priorityOf p = none := by
  rw [priorityOf, if_neg (by bv_omega), if_neg (by bv_omega)]

theorem checkEvent_code (cls : EventClass) (enable : Bool) (p : Priority) :
    checkEvent cls.code (boolCode enable) p.code =
      if cls = .restarted ∧ enable = false then .error 2 else .ok ⟨cls, enable, p⟩ := by
  rw [checkEvent, ofCode_code, flagOf_boolCode, priorityOf_code]
  rfl

/-- The first field out of range is the one named (R155). -/
theorem checkEvent_error {c e p : Byte} (h : c.toNat = 0 ∨ 11 < c.toNat ∨ 1 < e.toNat ∨ 1 < p.toNat) :
    checkEvent c e p =
      .error (if c.toNat = 0 ∨ 11 < c.toNat then 1 else if 1 < e.toNat then 2 else 3) := by
  by_cases hc : c.toNat = 0 ∨ 11 < c.toNat
  · rw [checkEvent, ofCode_of_not_mem hc, if_pos hc]
    rfl
  · obtain ⟨cls, hcls⟩ := exists_class hc
    rw [checkEvent, hcls, if_neg hc]
    by_cases he : 1 < e.toNat
    · rw [flagOf_of_lt he, if_pos he]
      rfl
    · have hp : 1 < p.toNat := by omega
      rw [flagOf_of_le (Nat.not_lt.mp he), priorityOf_of_lt hp, if_neg he]
      rfl

/-- The taking of a command leaves the pending entries as they are. -/
theorem taken_pending (s : State) : s.taken.notify.pending = s.notify.pending := by
  simp only [State.taken, leaveSilent_eq, handOff_eq]
  split <;> rfl

/-! ### SET_NOTIFY (R165) and ACK (R166) -/

theorem exec_setNotify (tag i l : Byte) (s : State) :
    exec (.setNotify tag [i, l]) s = conclude s
      (takeCommand tag 0x61 (some (withArguments (checkNotify i l) setNotify)) s) := rfl

theorem checkNotify_ok {i l : Byte} (hi : i ≠ 0) (hl : 1 ≤ l.toNat) (hl' : l.toNat ≤ 15) :
    checkNotify i l = .ok (i.toNat, l.toNat) := by
  rw [checkNotify, inRange_byte hi, inRange_of_mem hl hl']
  rfl

theorem checkNotify_error {i l : Byte} (h : i = 0 ∨ l = 0 ∨ 15 < l.toNat) :
    checkNotify i l = .error (if i = 0 then 1 else 2) := by
  by_cases hi : i = 0
  · rw [checkNotify, inRange_zero 255 hi, if_pos hi]
    rfl
  · have hl : ¬(1 ≤ l.toNat ∧ l.toNat ≤ 15) := by
      rcases h.resolve_left hi with rfl | hl
      · simp
      · omega
    rw [checkNotify, inRange_byte hi, inRange_of_not_mem hl, if_neg hi]
    rfl

/-- Settles O32: each of the three stores its settings when every field is in range, and names the first that is not. -/
theorem setIngressSetEventAndSetNotifyStoreTheirSettings :
    Obligations.SetIngressSetEventAndSetNotifyStoreTheirSettings := by
  refine ⟨fun tag n s hs => ⟨fun hn => ?_, fun hn => ?_⟩, fun tag cls enable p s hs => ⟨fun hallowed => ?_, ?_⟩,
    fun tag c e p s hs hout => ends_of_error (exec_setEvent ..) hs (checkEvent_error hout),
    fun tag i l s hs => ⟨fun hi hl hl' => ?_, fun hout => ends_of_error (exec_setNotify ..) hs (checkNotify_error hout)⟩⟩
  · exact ends_of_ok (exec_setIngress ..) hs (congrArg (require 1) (inRange_byte hn)) rfl
  · exact ends_of_error (exec_setIngress ..) hs (congrArg (require 1) (inRange_zero 255 hn))
  · have hno : ¬(cls = .restarted ∧ enable = false) := by
      rintro ⟨rfl, rfl⟩
      rcases hallowed with h | h
      · exact h rfl
      · cases h
    refine ends_of_ok (exec_setEvent ..) hs ((checkEvent_code ..).trans (if_neg hno)) ?_
    rw [setEvent, NotifyUnit.applySettings, taken_settings, taken_pending]
    rfl
  · rintro rfl rfl
    exact ends_of_error (exec_setEvent ..) hs ((checkEvent_code ..).trans (if_pos ⟨rfl, rfl⟩))
  · exact ends_of_ok (exec_setNotify ..) hs (checkNotify_ok hi hl hl') rfl

theorem exec_ack (tag seq : Byte) (s : State) :
    exec (.ack tag [seq]) s = conclude s (takeCommand tag 0x62 (some (acknowledge seq)) s) := rfl

theorem dropThrough_append {seq : Byte} {older newer : List SentEntry} {e : SentEntry} (he : e.sequence = seq)
    (hothers : ∀ x ∈ older, x.sequence ≠ seq) : dropThrough seq (older ++ e :: newer) = some newer := by
  induction older with
  | nil => exact if_pos he
  | cons x older ih =>
    rw [List.cons_append, dropThrough, if_neg (hothers x List.mem_cons_self)]
    exact ih fun y hy => hothers y (List.mem_cons_of_mem x hy)

theorem dropThrough_of_not_mem {seq : Byte} {l : List SentEntry} (h : ∀ x ∈ l, x.sequence ≠ seq) :
    dropThrough seq l = none := by
  induction l with
  | nil => rfl
  | cons x l ih =>
    rw [dropThrough, if_neg (h x List.mem_cons_self)]
    exact ih fun y hy => h y (List.mem_cons_of_mem x hy)

/-- Leaving MANAGEMENT_SILENT keeps the sequence numbers (R164). -/
theorem taken_sequences {s : State} {seq : Byte} (h : ∀ x ∈ s.notify.sent, x.sequence ≠ seq) :
    ∀ x ∈ s.taken.notify.sent, x.sequence ≠ seq := by
  simp only [State.taken, leaveSilent_eq, handOff_eq]
  split
  · intro x hx
    obtain ⟨y, hy, rfl⟩ := List.mem_map.mp hx
    exact h y hy
  · exact h

/-- Settles O33: the named entry and the older ones come first among the unacknowledged entries. -/
theorem ackRemovesTheEntryAndEveryOlderOne : Obligations.AckRemovesTheEntryAndEveryOlderOne := by
  refine fun tag seq s hs => ⟨fun older newer e hsent he hothers => ?_, fun hnone => ?_⟩
  · refine ends_of_reply (exec_ack ..) hs ?_
    rw [acknowledge, hsent, dropThrough_append he hothers]
    rfl
  · refine ends_of_reply (exec_ack ..) hs ?_
    rw [acknowledge, dropThrough_of_not_mem (taken_sequences hnone)]
    rfl

end Sys2Proof.Machine
end

section
/-! SUPPORT. The fields that the bytes of an entry record hold, and what the checks of a record and of a bank find. -/

namespace Sys2Proof.Machine

/-! ### Bit fields as numbers -/

/-- Two fields side by side, as a number. -/
theorem toNat_append_add {m n : Nat} (x : BitVec m) (y : BitVec n) : (x ++ y).toNat = x.toNat * 2 ^ n + y.toNat := by
  rw [BitVec.toNat_append, ← Nat.shiftLeft_add_eq_or_of_lt y.isLt, Nat.shiftLeft_eq]

/-- A field of a byte string, as a number. -/
theorem toNat_extract {n : Nat} (start len : Nat) (x : BitVec n) :
    (x.extractLsb' start len).toNat = x.toNat / 2 ^ start % 2 ^ len := by
  rw [BitVec.extractLsb'_toNat, Nat.shiftRight_eq_div_pow]

theorem getLsbD_eq_decide {n : Nat} (x : BitVec n) (i : Nat) : x.getLsbD i = decide (x.toNat / 2 ^ i % 2 = 1) :=
  Nat.testBit_eq_decide_div_mod_eq

/-! ### The codes of an entry record (Table 1.14) -/

/-- The step of a legal code. -/
def stepOfNat (c : Nat) : StepSize := if c = 0 then .one else if c = 1 then .two else .four

theorem stepOf_three {c : BitVec 2} (h : c.toNat = 3) : stepOf c = none := by
  obtain rfl : c = 3 := BitVec.eq_of_toNat_eq h
  rfl

theorem stepOf_of_ne {c : BitVec 2} (h : c.toNat ≠ 3) : stepOf c = some (stepOfNat c.toNat) := by
  obtain rfl | rfl | rfl : c = 0 ∨ c = 1 ∨ c = 2 := by bv_omega
  all_goals rfl

theorem triggerOf_of_le {c : BitVec 3} (h : 5 ≤ c.toNat) : triggerOf c = none := by
  obtain rfl | rfl | rfl : c = 5 ∨ c = 6 ∨ c = 7 := by bv_omega
  all_goals rfl

theorem triggerOf_of_lt {c : BitVec 3} (h : c.toNat < 5) :
    triggerOf c = some (if _ : c.toNat = 0 then none else some ⟨c.toNat - 1, by omega⟩) := by
  obtain rfl | rfl | rfl | rfl | rfl : c = 0 ∨ c = 1 ∨ c = 2 ∨ c = 3 ∨ c = 4 := by bv_omega
  all_goals rfl

end Sys2Proof.Machine
end

section
/-! The statements about entry records and the bank-level checks, settled. -/

namespace Sys2Proof.Machine

/-- Settles O25: the checks in their order, each field read by arithmetic. -/
theorem recordIsCheckedFieldsFirstThenPairs : Obligations.RecordIsCheckedFieldsFirstThenPairs := by
  intro flags ps st tr top height left width port rowCode columnCode source stepOfCode
  have hport : ((ps.extractLsb' 4 4).setWidth 8).toNat = port := by
    rw [BitVec.toNat_setWidth, toNat_extract]
    have := ps.isLt
    omega
  have hrow : (st.extractLsb' 6 2).toNat = rowCode := by
    rw [toNat_extract]
    have := st.isLt
    omega
  have hcolumn : (st.extractLsb' 4 2).toNat = columnCode := toNat_extract 4 2 st
  have hsource : (tr.extractLsb' 5 3).toNat = source := by
    rw [toNat_extract]
    have := tr.isLt
    omega
  unfold entryOfRecord
  dsimp only
  by_cases hheight : height.toNat = 0 ∨ 4096 < height.toNat
  · rw [if_pos hheight, inRange_of_not_mem (by omega)]
    rfl
  rw [if_neg hheight, inRange_of_mem (by omega) (by omega), require_some, ok_bind]
  by_cases hwidth : width.toNat = 0 ∨ 4096 < width.toNat
  · rw [if_pos hwidth, inRange_of_not_mem (by omega)]
    rfl
  rw [if_neg hwidth, inRange_of_mem (by omega) (by omega), require_some, ok_bind]
  by_cases hp : 4 ≤ port
  · rw [dif_pos hp, fin4Of_of_le (hport ▸ hp)]
    rfl
  rw [dif_neg hp, fin4Of_of_lt (by omega), require_some, ok_bind]
  by_cases hsteps : rowCode = 3 ∨ columnCode = 3
  · rw [if_pos hsteps]
    by_cases hr : rowCode = 3
    · rw [stepOf_three (hrow.trans hr)]
      rfl
    · rw [stepOf_of_ne (by omega), stepOf_three (hcolumn.trans (hsteps.resolve_left hr))]
      rfl
  rw [if_neg hsteps, stepOf_of_ne (by omega), stepOf_of_ne (by omega), require_some, ok_bind, require_some, ok_bind]
  by_cases hs : 5 ≤ source
  · rw [dif_pos hs, triggerOf_of_le (hsource ▸ hs)]
    rfl
  rw [dif_neg hs, triggerOf_of_lt (by omega), require_some, ok_bind]
  by_cases htop : 4096 < top.toNat + height.toNat
  · rw [if_pos htop, inRange_of_not_mem (by omega)]
    rfl
  rw [if_neg htop, inRange_of_mem (by omega) (by omega), require_some, ok_bind]
  by_cases hleft : 4096 < left.toNat + width.toNat
  · rw [if_pos hleft, inRange_of_not_mem (by omega)]
    rfl
  rw [if_neg hleft, inRange_of_mem (by omega) (by omega), require_some, ok_bind]
  have hstream : ps.extractLsb' 0 4 = BitVec.ofNat 4 ps.toNat := by
    apply BitVec.eq_of_toNat_eq
    rw [toNat_extract, BitVec.toNat_ofNat, Nat.pow_zero, Nat.div_one]
  have hhold : (tr.extractLsb' 0 4).toNat = tr.toNat % 16 :=
    (toNat_extract 0 4 tr).trans (by rw [Nat.pow_zero, Nat.div_one]; rfl)
  simp only [getLsbD_eq_decide, hport, hrow, hcolumn, hsource, hstream, hhold, decide_eq_true_eq]
  rfl

/-! ### The record of an entry (R51) -/

theorem rawRecord_record (e : Entry) :
    rawRecord e.record = some
      { flags := e.flagsByte
        top := BitVec.ofNat 16 e.topRow
        height := BitVec.ofNat 16 e.height
        left := BitVec.ofNat 16 e.leftColumn
        width := BitVec.ofNat 16 e.width
        portStream := BitVec.ofNat 4 e.port.val ++ e.stream
        steps := stepCode e.rowStep ++ stepCode e.columnStep ++ (0 : BitVec 4)
        trigger := triggerCode e.trigger ++ (0 : BitVec 1) ++ BitVec.ofNat 4 e.holdOff } := by
  have hhalf (x : Half) : halfOf (x.extractLsb' 8 8) (x.extractLsb' 0 8) = x := halfOf_bytes x
  simp only [Entry.record, halfBytes, List.cons_append, List.nil_append, rawRecord, hhalf]

theorem inRange_ofNat {low high n : Nat} (hlow : low ≤ n) (hhigh : n ≤ high) (hsmall : n < 65536) :
    inRange low high (BitVec.ofNat 16 n).toNat = some n := by
  rw [BitVec.toNat_ofNat, Nat.mod_eq_of_lt hsmall]
  exact inRange_of_mem hlow hhigh

theorem stepOf_stepCode (step : StepSize) : stepOf (stepCode step) = some step := by cases step <;> rfl

theorem triggerOf_triggerCode : ∀ trigger : Option (Fin 4), triggerOf (triggerCode trigger) = some trigger := by decide

theorem fin4Of_ofNat : ∀ p : Fin 4, fin4Of ((BitVec.ofNat 4 p.val).setWidth 8) = some p := by decide

/-- Bits 7 to 4 of the flags byte are the four flags. -/
theorem flagsByte_bits (e : Entry) :
    e.flagsByte.getLsbD 7 = e.enable ∧ (if e.flagsByte.getLsbD 6 then .armed else .continuous) = e.mode ∧
    (if e.flagsByte.getLsbD 5 then .restart else .keep) = e.policy ∧ e.flagsByte.getLsbD 4 = e.carryInfo := by
  unfold Entry.flagsByte
  cases e.enable <;> cases e.mode <;> cases e.policy <;> cases e.carryInfo <;> decide

theorem entryOfRecord_record {e : Entry} (he : e.Legal) :
    entryOfRecord
      { flags := e.flagsByte
        top := BitVec.ofNat 16 e.topRow
        height := BitVec.ofNat 16 e.height
        left := BitVec.ofNat 16 e.leftColumn
        width := BitVec.ofNat 16 e.width
        portStream := BitVec.ofNat 4 e.port.val ++ e.stream
        steps := stepCode e.rowStep ++ stepCode e.columnStep ++ (0 : BitVec 4)
        trigger := triggerCode e.trigger ++ (0 : BitVec 1) ++ BitVec.ofNat 4 e.holdOff } = .ok e := by
  obtain ⟨⟨hheight, htop⟩, ⟨hwidth, hleft⟩, hhold⟩ := he
  obtain ⟨henable, hmode, hpolicy, hinfo⟩ := flagsByte_bits e
  have hrow : (stepCode e.rowStep ++ stepCode e.columnStep ++ (0 : BitVec 4)).extractLsb' 6 2 = stepCode e.rowStep := by
    rw [BitVec.extractLsb'_append_eq_of_le (by decide), BitVec.extractLsb'_append_eq_left]
  have hcolumn :
      (stepCode e.rowStep ++ stepCode e.columnStep ++ (0 : BitVec 4)).extractLsb' 4 2 = stepCode e.columnStep := by
    rw [BitVec.extractLsb'_append_eq_of_le (by decide), BitVec.extractLsb'_append_eq_right]
  have htrigger : (triggerCode e.trigger ++ (0 : BitVec 1) ++ BitVec.ofNat 4 e.holdOff).extractLsb' 5 3 =
      triggerCode e.trigger := by
    rw [BitVec.extractLsb'_append_eq_of_le (by decide), BitVec.extractLsb'_append_eq_left]
  have hcount : (BitVec.ofNat 4 e.holdOff).toNat = e.holdOff := by
    rw [BitVec.toNat_ofNat, Nat.mod_eq_of_lt (by omega)]
  unfold entryOfRecord
  dsimp only
  rw [inRange_ofNat hheight (by omega) (by omega), require_some, ok_bind,
    inRange_ofNat hwidth (by omega) (by omega), require_some, ok_bind, BitVec.extractLsb'_append_eq_left,
    fin4Of_ofNat, require_some, ok_bind, hrow, stepOf_stepCode, require_some, ok_bind, hcolumn, stepOf_stepCode,
    require_some, ok_bind, htrigger, triggerOf_triggerCode, require_some, ok_bind,
    inRange_ofNat (Nat.zero_le _) (by omega) (by omega), require_some, ok_bind,
    inRange_ofNat (Nat.zero_le _) (by omega) (by omega), require_some, ok_bind, henable, hmode, hpolicy, hinfo,
    BitVec.extractLsb'_append_eq_right, BitVec.extractLsb'_append_eq_right, hcount]

/-- A byte that ends in four zero bits. -/
theorem mod_append_zero (x : BitVec 4) : (x ++ (0 : BitVec 4)).toNat % 16 = 0 := by
  rw [toNat_append_add]
  simp

/-- Settles O26: each field is read back from where it was written. -/
theorem recordOfAnEntryReadsBack : Obligations.RecordOfAnEntryReadsBack := by
  refine fun e he => ⟨rfl, ⟨_, rawRecord_record e, entryOfRecord_record he⟩, mod_append_zero _, mod_append_zero _, ?_⟩
  change (triggerCode e.trigger ++ (0 : BitVec 1) ++ BitVec.ofNat 4 e.holdOff).toNat / 16 % 2 = 0
  have hlast := (BitVec.ofNat 4 e.holdOff).isLt
  rw [toNat_append_add, toNat_append_add, show (0 : BitVec 1).toNat = 0 from rfl]
  omega

/-! ### The bank-level checks (R45) -/

theorem sameStream_iff (a b : Entry) : a.sameStream b = true ↔ a.port = b.port ∧ a.stream = b.stream := by
  simp [Entry.sameStream]

/-- An enabled entry fails for a disabled port, or for a stream that an enabled entry before it has. -/
theorem entryFault_eq_some_iff {bank : Vector Entry 16} {enabled : Fin 4 → Bool} {i : Fin 16} {cause : Byte} :
    entryFault bank enabled i = some cause ↔
      (bank[i].enable = true ∧ (enabled bank[i].port = false ∨
        ∃ j, j < i ∧ bank[j].enable = true ∧ bank[i].port = bank[j].port ∧ bank[i].stream = bank[j].stream)) ∧
      cause = if enabled bank[i].port = false then 2 else 1 := by
  have hshares : (allSlots.any fun j => decide (j < i) && bank[j].enable && bank[j].sameStream bank[i]) = true ↔
      ∃ j, j < i ∧ bank[j].enable = true ∧ bank[i].port = bank[j].port ∧ bank[i].stream = bank[j].stream := by
    simp only [allSlots, List.any_eq_true, List.mem_finRange, true_and, Bool.and_eq_true, decide_eq_true_eq,
      sameStream_iff, and_assoc, eq_comm (a := bank[i].port), eq_comm (a := bank[i].stream)]
  unfold entryFault
  cases bank[i].enable with
  | false => simp
  | true =>
    cases enabled bank[i].port with
    | false => exact ⟨fun h => ⟨⟨rfl, .inl rfl⟩, (Option.some.inj h).symm⟩, fun ⟨_, h⟩ => congrArg some h.symm⟩
    | true =>
      simp only [Bool.not_true, Bool.false_eq_true, Bool.true_eq_false, if_false, true_and, false_or]
      rw [← hshares]
      generalize (allSlots.any fun j => decide (j < i) && bank[j].enable && bank[j].sameStream bank[i]) = shared
      cases shared with
      | false => exact ⟨nofun, fun ⟨h, _⟩ => absurd h Bool.false_ne_true⟩
      | true => exact ⟨fun h => ⟨rfl, (Option.some.inj h).symm⟩, fun ⟨_, h⟩ => congrArg some h.symm⟩

/-- The first of the numbers below n at which a search succeeds. -/
theorem findSome?_finRange_eq_some_iff {n : Nat} {α : Type} {f : Fin n → Option α} {a : α} :
    (List.finRange n).findSome? f = some a ↔ ∃ i, f i = some a ∧ ∀ j, j < i → f j = none := by
  have hsplit {before after : List (Fin n)} {i : Fin n} (h : List.finRange n = before ++ i :: after) (j : Fin n) :
      j ∈ before ↔ j < i := by
    have hsorted := List.pairwise_lt_finRange n
    rw [h, List.pairwise_append, List.pairwise_cons] at hsorted
    obtain ⟨-, ⟨hafter, -⟩, hbefore⟩ := hsorted
    refine ⟨fun hj => hbefore j hj i List.mem_cons_self, fun hj => ?_⟩
    have hmem := List.mem_finRange j
    rw [h, List.mem_append, List.mem_cons] at hmem
    rcases hmem with hmem | rfl | hmem
    · exact hmem
    · exact absurd hj (lt_irrefl j)
    · exact absurd hj (hafter j hmem).asymm
  rw [List.findSome?_eq_some_iff]
  constructor
  · rintro ⟨before, i, after, hl, hi, hnone⟩
    exact ⟨i, hi, fun j hj => hnone j ((hsplit hl j).mpr hj)⟩
  · rintro ⟨i, hi, hnone⟩
    obtain ⟨before, after, hl⟩ := List.append_of_mem (List.mem_finRange i)
    exact ⟨before, i, after, hl, hi, fun j hj => hnone j ((hsplit hl j).mp hj)⟩

theorem bankFault_eq_some_iff {bank : Vector Entry 16} {enabled : Fin 4 → Bool} {i : Fin 16} {cause : Byte} :
    bankFault bank enabled = some (i, cause) ↔
      entryFault bank enabled i = some cause ∧ ∀ j, j < i → entryFault bank enabled j = none := by
  unfold bankFault allSlots
  rw [findSome?_finRange_eq_some_iff]
  constructor
  · rintro ⟨j, hj, hnone⟩
    obtain ⟨c, hc, hpair⟩ := Option.map_eq_some_iff.mp hj
    obtain ⟨rfl, rfl⟩ := Prod.mk.inj hpair
    exact ⟨hc, fun k hk => Option.map_eq_none_iff.mp (hnone k hk)⟩
  · rintro ⟨hi, hnone⟩
    exact ⟨i, by rw [hi]; rfl, fun j hj => by rw [hnone j hj]; rfl⟩

/-- Settles O27: the bank is searched in ascending index, each entry judged against the enabled ones before it. -/
theorem bankChecksReportTheFirstFailingEntry : Obligations.BankChecksReportTheFirstFailingEntry := by
  intro bank enabled shares fails
  have hfails (i : Fin 16) : entryFault bank enabled i = none ↔ ¬fails i := by
    rw [Option.eq_none_iff_forall_ne_some]
    refine ⟨fun h hi => h _ (entryFault_eq_some_iff.mpr ⟨hi, rfl⟩), fun h cause hc => h (entryFault_eq_some_iff.mp hc).1⟩
  refine ⟨?_, fun i cause => ?_⟩
  · rw [bankFault_eq_none_iff]
    simp only [hfails]
    refine ⟨fun h => ⟨fun i j hi hij => ?_, fun i hi => ?_⟩, fun ⟨hunique, hports⟩ i ⟨hi, hwhy⟩ => ?_⟩
    · obtain ⟨hj, hport, hstream⟩ := hij
      rcases lt_trichotomy i j with hlt | heq | hlt
      · exact absurd ⟨hj, .inr ⟨i, hlt, hi, hport.symm, hstream.symm⟩⟩ (h j)
      · exact heq
      · exact absurd ⟨hi, .inr ⟨j, hlt, hj, hport, hstream⟩⟩ (h i)
    · by_contra hdisabled
      exact h i ⟨hi, .inl (Bool.eq_false_of_not_eq_true hdisabled)⟩
    · rcases hwhy with hdisabled | ⟨j, hj, hshares⟩
      · rw [hports i hi] at hdisabled
        cases hdisabled
      · exact absurd (hunique i j hi hshares) (ne_of_gt hj)
  · rw [bankFault_eq_some_iff, entryFault_eq_some_iff]
    simp only [hfails]
    exact ⟨fun ⟨⟨hi, hcause⟩, hnone⟩ => ⟨hi, hnone, hcause⟩, fun ⟨hi, hnone, hcause⟩ => ⟨⟨hi, hcause⟩, hnone⟩⟩

end Sys2Proof.Machine
end

section
/-! The statements about WRITE_ENTRY and SET_PORT, settled. -/

namespace Sys2Proof.Machine

/-! ### WRITE_ENTRY (R49, R50) -/

theorem exec_writeEntry {record : List Byte} {raw : RawRecord} (hrecord : rawRecord record = some raw) (tag b i : Byte)
    (s : State) :
    exec (.writeEntry tag (b :: i :: record)) s = conclude s (takeCommand tag 0x10
      (some (withArguments (checkWrite b i raw) fun a => writeEntry a.1 a.2.1 a.2.2)) s) := by
  change conclude s (takeCommand tag 0x10 (writeEntryAction (b :: i :: record)) s) = _
  rw [writeEntryAction, hrecord, Option.map_some]

section
variable {b i : Byte} {raw : RawRecord} {e : Entry} {field : Byte}

theorem checkWrite_ok (hb : b.toNat < 4) (hi : i.toNat < 16) (he : entryOfRecord raw = .ok e) :
    checkWrite b i raw = .ok (⟨b.toNat, hb⟩, ⟨i.toNat, hi⟩, e) := by
  rw [checkWrite, fin4Of_of_lt hb, fin16Of_of_lt hi, he]
  rfl

theorem checkWrite_bank (hb : 4 ≤ b.toNat) : checkWrite b i raw = .error 1 := by
  rw [checkWrite, fin4Of_of_le hb]
  rfl

theorem checkWrite_index (hb : b.toNat < 4) (hi : 16 ≤ i.toNat) : checkWrite b i raw = .error 2 := by
  rw [checkWrite, fin4Of_of_lt hb, fin16Of_of_le hi]
  rfl

theorem checkWrite_record (hb : b.toNat < 4) (hi : i.toNat < 16) (he : entryOfRecord raw = .error field) :
    checkWrite b i raw = .error field := by
  rw [checkWrite, fin4Of_of_lt hb, fin16Of_of_lt hi, he]
  rfl

end

section
variable {b : Fin 4} {i : Fin 16} {e : Entry} {s : State}

theorem writeEntry_standby (hb : b ≠ s.activeBank) (hp : s.pendingBank ≠ some b) :
    writeEntry b i e s = (s.setEntry b i e, ⟨.done, 0, []⟩) := by
  rw [writeEntry, if_neg hb, if_neg fun h => hp h.symm]
  rfl

theorem writeEntry_pending (hb : b ≠ s.activeBank) (hp : s.pendingBank = some b) :
    writeEntry b i e s = (s, ⟨.bankPending, 0, []⟩) := by
  rw [writeEntry, if_neg hb, if_pos hp.symm]
  rfl

theorem writeEntry_live (hb : b = s.activeBank) (hframe : s.receiver.state = .inFrame) :
    writeEntry b i e s = (s, ⟨.bankLive, 0, []⟩) := by
  rw [writeEntry, if_pos hb, if_pos hframe]
  rfl

theorem writeEntry_invalid {j : Fin 16} {cause : Byte} (hb : b = s.activeBank) (hframe : s.receiver.state ≠ .inFrame)
    (hfault : bankFault (s.banks[b].set i.val e) s.portEnabled = some (j, cause)) :
    writeEntry b i e s = (s, ⟨.invalidTable, BitVec.ofNat 8 j.val, [cause]⟩) := by
  subst hb
  rw [writeEntry, if_pos rfl, if_neg hframe, writeActive, hfault]
  rfl

/-- The slot that the entry governs is reset (R66). -/
theorem writeEntry_active (hb : b = s.activeBank) (hframe : s.receiver.state ≠ .inFrame)
    (hsound : bankFault (s.banks[b].set i.val e) s.portEnabled = none) :
    writeEntry b i e s = ((s.setEntry b i e).setSlot i
      { s.slot i with armCount := 0, holdOff := 0, frameNumber := 0, state := settledState e 0 }, ⟨.done, 0, []⟩) := by
  subst hb
  have hgoverning : (s.setEntry s.activeBank i e).governing i = e := by
    change (s.setEntry s.activeBank i e).entry s.activeBank i = e
    rw [entry_setEntry, if_pos ⟨rfl, rfl⟩]
  rw [writeEntry, if_pos rfl, if_neg hframe, writeActive, hsound]
  dsimp only
  rw [resetSlot, hgoverning]
  rfl

end

/-- The hand-off of a command neither enters nor leaves a frame. -/
theorem taken_inFrame (s : State) : s.taken.receiver.state = .inFrame ↔ s.receiver.state = .inFrame := by
  simp only [State.taken, leaveSilent_eq, handOff_eq]
  cases s.receiver.state <;> simp

/-- Settles O35: the arguments are checked in their passes, and the role of the bank decides. -/
theorem writeEntryActsByTheRoleOfTheBank : Obligations.WriteEntryActsByTheRoleOfTheBank := by
  constructor
  · intro tag b i record raw e s hb hi hs hrecord he bank index answered written
    have hanswered {r : Reply} {u : State} (h : writeEntry bank index e s.taken = (u, r)) : answered r u :=
      ends_of_ok (exec_writeEntry hrecord ..) hs (checkWrite_ok hb hi he) h
    refine ⟨fun hactive hp => hanswered (writeEntry_standby (by simpa using hactive) (by simpa using hp)),
      fun hactive hp => hanswered (writeEntry_pending (by simpa using hactive) (by simpa using hp)),
      fun hactive hframe => hanswered (writeEntry_live (by simpa using hactive) ((taken_inFrame s).mpr hframe)),
      fun hactive hframe => ⟨fun j cause hfault => hanswered ?_, fun hsound => ?_⟩⟩
    · refine writeEntry_invalid (by simpa using hactive) (mt (taken_inFrame s).mp hframe) ?_
      rw [taken_banks, taken_portEnabled]
      exact hfault
    · have hwritten := writeEntry_active (s := s.taken) (b := bank) (i := index) (e := e) (by simpa using hactive)
        (mt (taken_inFrame s).mp hframe) (by rw [taken_banks, taken_portEnabled]; exact hsound)
      rw [taken_slot] at hwritten
      exact hanswered hwritten
  · intro tag b i record raw s hs hrecord refused
    have hrefused {field : Byte} (h : checkWrite b i raw = .error field) : refused field :=
      ends_of_error (exec_writeEntry hrecord ..) hs h
    exact ⟨fun hb => hrefused (checkWrite_bank hb), fun hb hi => hrefused (checkWrite_index hb hi),
      fun field hb hi he => hrefused (checkWrite_record hb hi he)⟩

/-! ### SET_PORT (R119, R120) -/

theorem exec_setPort (tag p e c1 c0 h1 h0 : Byte) (s : State) :
    exec (.setPort tag [p, e, c1, c0, h1, h0]) s = conclude s
      (takeCommand tag 0x30 (some (withArguments (checkPort p e c1 c0 h1 h0) Machine.setPort)) s) := rfl

section
variable {p e c1 c0 h1 h0 : Byte}

theorem checkPort_ok (hp : p.toNat < 4) (he : e.toNat ≤ 1) (hc : (halfOf c1 c0).toNat ≤ 1024)
    (hh : (halfOf h1 h0).toNat ≤ 1000) :
    checkPort p e c1 c0 h1 h0 = .ok ⟨⟨p.toNat, hp⟩, e == 1, (halfOf c1 c0).toNat, (halfOf h1 h0).toNat⟩ := by
  rw [checkPort, fin4Of_of_lt hp, flagOf_of_le he, inRange_of_mem (Nat.zero_le _) hc, inRange_of_mem (Nat.zero_le _) hh]
  rfl

/-- The first field out of range is the one named (R119). -/
theorem checkPort_error
    (h : 4 ≤ p.toNat ∨ 1 < e.toNat ∨ 1024 < (halfOf c1 c0).toNat ∨ 1000 < (halfOf h1 h0).toNat) :
    checkPort p e c1 c0 h1 h0 = .error
      (if 4 ≤ p.toNat then 1 else if 1 < e.toNat then 2 else if 1024 < (halfOf c1 c0).toNat then 3 else 4) := by
  by_cases hp : 4 ≤ p.toNat
  · rw [checkPort, fin4Of_of_le hp, if_pos hp]
    rfl
  by_cases he : 1 < e.toNat
  · rw [checkPort, fin4Of_of_lt (Nat.not_le.mp hp), flagOf_of_lt he, if_neg hp, if_pos he]
    rfl
  by_cases hc : 1024 < (halfOf c1 c0).toNat
  · rw [checkPort, fin4Of_of_lt (Nat.not_le.mp hp), flagOf_of_le (Nat.not_lt.mp he),
      inRange_of_not_mem (by omega), if_neg hp, if_neg he, if_pos hc]
    rfl
  · rw [checkPort, fin4Of_of_lt (Nat.not_le.mp hp), flagOf_of_le (Nat.not_lt.mp he),
      inRange_of_mem (Nat.zero_le _) (Nat.not_lt.mp hc), inRange_of_not_mem (by omega), if_neg hp, if_neg he, if_neg hc]
    rfl

end

/-- A port is in use while an enabled entry of the active or the pending bank names it, or it holds records, reservations, a
line or streams that are open (R119). -/
theorem portInUse_iff (s : State) (p : Fin 4) : s.portInUse p = true ↔
    (∃ i : Fin 16, (s.entry s.activeBank i).enable = true ∧ (s.entry s.activeBank i).port = p) ∨
    (∃ (b : Fin 4) (i : Fin 16), s.pendingBank = some b ∧ (s.entry b i).enable = true ∧ (s.entry b i).port = p) ∨
    0 < (s.port p).queued ∨ 0 < (s.port p).reservations ∨ (s.port p).openSet ≠ 0 ∨ (s.port p).transmission ≠ none := by
  have hnames (b : Fin 4) : bankNames s.banks[b] p = true ↔
      ∃ i : Fin 16, (s.entry b i).enable = true ∧ (s.entry b i).port = p := by
    simp [bankNames, allSlots, State.entry]
  have hnamed : s.namedPort p = true ↔ (∃ i : Fin 16, (s.entry s.activeBank i).enable = true ∧
      (s.entry s.activeBank i).port = p) ∨
      ∃ (b : Fin 4) (i : Fin 16), s.pendingBank = some b ∧ (s.entry b i).enable = true ∧ (s.entry b i).port = p := by
    unfold State.namedPort
    rw [Bool.or_eq_true, hnames]
    refine or_congr_right ?_
    cases s.pendingBank with
    | none => simp
    | some b => simp only [hnames, Option.some.injEq, exists_and_left, exists_eq_left']
  simp only [State.portInUse, Bool.or_eq_true, decide_eq_true_eq, bne_iff_ne, Option.isSome_iff_ne_none, or_assoc,
    hnamed]

theorem setPort_managementPort {a : PortSettings} {s : State} (hoff : a.enable = false) (hp : a.port = s.mgmt) :
    Machine.setPort a s = (s, ⟨.mgmtPort, 0, []⟩) := by
  rw [Machine.setPort, if_pos ⟨hoff, hp⟩]
  rfl

theorem setPort_inUse {a : PortSettings} {s : State} (hoff : a.enable = false) (hp : a.port ≠ s.mgmt)
    (henable : (s.port a.port).enable = true) (huse : s.portInUse a.port = true) :
    Machine.setPort a s = (s, ⟨.portInUse, 0, []⟩) := by
  rw [Machine.setPort, if_neg fun h => hp h.2, if_pos ⟨hoff, henable, huse⟩]
  rfl

theorem setPort_stored {a : PortSettings} {s : State} (h : a.enable = true ∨
    (a.port ≠ s.mgmt ∧ ¬((s.port a.port).enable = true ∧ s.portInUse a.port = true))) :
    Machine.setPort a s = (s.setPort a.port ((s.port a.port).applySettings a), ⟨.done, 0, []⟩) := by
  rcases h with hon | ⟨hp, hfree⟩
  · rw [Machine.setPort, hon, if_neg (by simp), if_neg (by simp)]
    rfl
  · rw [Machine.setPort, if_neg fun h => hp h.2, if_neg fun h => hfree h.2]
    rfl

/-- The taking of a command moves nothing that tells whether a port is in use. -/
theorem taken_portInUse (s : State) (p : Fin 4) : s.taken.portInUse p = s.portInUse p := by
  rw [Bool.eq_iff_iff, portInUse_iff, portInUse_iff]
  simp only [taken_entry, taken_activeBank, taken_pendingBank, taken_port]

/-- Settles O39: fields first, then the two refusals of a disable; the settings are stored otherwise. -/
theorem setPortStoresOrRefuses : Obligations.SetPortStoresOrRefuses := by
  intro tag p e c1 c0 h1 h0 s hs ceiling timeout answered
  refine ⟨fun hout => ends_of_error (exec_setPort ..) hs (checkPort_error hout), ?_⟩
  intro hp he hc hh n q inUse
  have hanswered {r : Reply} {u : State}
      (h : Machine.setPort ⟨n, e == 1, ceiling.toNat, timeout.toNat⟩ s.taken = (u, r)) : answered r u :=
    ends_of_ok (exec_setPort ..) hs (checkPort_ok hp he hc hh) h
  have huse : s.taken.portInUse n = true ↔ inUse := by rw [taken_portInUse, portInUse_iff]
  have hoff (h : e = 0) : (e == 1) = false := by subst h; rfl
  refine ⟨fun he0 hn => hanswered (setPort_managementPort (hoff he0) (by simpa using hn)),
    fun he0 hn henable hin => hanswered (setPort_inUse (hoff he0) (by simpa using hn) (by simpa using henable)
      (huse.mpr hin)), fun hallowed => ?_⟩
  have hstored := setPort_stored (s := s.taken) (a := ⟨n, e == 1, ceiling.toNat, timeout.toNat⟩)
    (hallowed.imp (fun h => by subst h; rfl) fun ⟨hn, hfree⟩ => ⟨by simpa using hn, by simpa [huse] using hfree⟩)
  refine hanswered (hstored.trans ?_)
  have henable : (e == 1) = decide (e = 1) := rfl
  have hzero : e = 0 ↔ ¬e = 1 := by bv_omega
  simp only [taken_port, Port.applySettings, Port.restState, henable, hzero, decide_eq_true_eq, Bool.and_eq_true]
  by_cases hon : e = 1
  · by_cases hstate : q.state = .disabled <;> simp [hon, hstate, q, n, ceiling, timeout]
  · simp [q, n, ceiling, timeout]

end Sys2Proof.Machine
end

section
/-! The statements about the trigger lines, settled. -/

namespace Sys2Proof.Machine

/-! ### Accepted changes (R128, R129) -/

theorem names_iff (e : EdgeSelect) (level : Bool) : e.names (directionTo level) = true ↔
    e = .both ∨ (e = .rising ∧ level = true) ∨ (e = .falling ∧ level = false) := by
  cases e <;> cases level <;> simp [EdgeSelect.names, directionTo]

/-- An accepted change: the edge joins those not yet taken if the edge select names it and the line holds fewer than
two. -/
theorem accept_eq (l : TriggerLine) : l.accept = { l with
    filteredLevel := l.pin
    filterInterval := .stopped
    edges := if (l.edge = .both ∨ (l.edge = .rising ∧ l.pin = true) ∨ (l.edge = .falling ∧ l.pin = false)) ∧
      l.edges.length < 2 then l.edges ++ [if l.pin then .rising else .falling] else l.edges } := by
  have hedges : (if l.edge.names (directionTo l.pin) = true then addEdge (directionTo l.pin) l.edges else l.edges) =
      if (l.edge = .both ∨ (l.edge = .rising ∧ l.pin = true) ∨ (l.edge = .falling ∧ l.pin = false)) ∧
        l.edges.length < 2 then l.edges ++ [if l.pin then .rising else .falling] else l.edges := by
    rw [ite_and, ← ite_congr (propext (names_iff ..)) (fun _ => rfl) fun _ => rfl]
    rfl
  rw [TriggerLine.accept, hedges]

section
variable {l : TriggerLine}

theorem changePin_of_output (hmode : l.mode ≠ .input) : l.changePin = { l with pin := !l.pin } := if_neg hmode

theorem changePin_of_input (hmode : l.mode = .input) : l.changePin = ({ l with pin := !l.pin } : TriggerLine).filterPin :=
  if_pos hmode

theorem filterPin_of_eq (h : l.pin = l.filteredLevel) : l.filterPin = { l with filterInterval := .stopped } := if_pos h

theorem filterPin_accepts (h : l.pin ≠ l.filteredLevel) (hfilter : l.filter = .us0) : l.filterPin = l.accept := by
  rw [TriggerLine.filterPin, if_neg h, hfilter]

theorem filterPin_starts (h : l.pin ≠ l.filteredLevel) (hfilter : l.filter ≠ .us0) :
    l.filterPin = { l with filterInterval := .running l.filter.micros } := by
  rw [TriggerLine.filterPin, if_neg h]
  cases hf : l.filter with
  | us0 => exact absurd hf hfilter
  | us1 | us10 | us100 => rfl

end

theorem exec_triggerPinChange (n : Fin 4) (s : State) :
    exec (.triggerPinChange n) s = conclude s (some (s.setLine n (s.line n).changePin)) := rfl

theorem exec_filterIntervalExpiry (n : Fin 4) (s : State) :
    exec (.filterIntervalExpiry n) s = conclude s (filterExpiry n s) := rfl

/-- Settles O58: the pin moves, and the filter of a line in INPUT mode goes by the pin and the filtered level. -/
theorem pinChangesAreFilteredAndAccepted : Obligations.PinChangesAreFilteredAndAccepted := by
  intro n s l accepted moved ends
  have hends {x : TriggerLine} (h : l.changePin = x) : ends x := by
    subst h
    exact ends_of_effect (exec_triggerPinChange n s) rfl
  refine ⟨fun hmode => hends (changePin_of_output hmode), fun hmode hlevel => hends ?_, fun hmode hlevel hfilter => hends ?_,
    fun hmode hlevel hfilter => hends ?_, fun hmode hrun => ?_⟩
  · exact (changePin_of_input hmode).trans (filterPin_of_eq (l := moved) hlevel)
  · exact (changePin_of_input hmode).trans ((filterPin_accepts (l := moved) hlevel hfilter).trans (accept_eq moved))
  · exact (changePin_of_input hmode).trans (filterPin_starts (l := moved) hlevel hfilter)
  · refine ends_of_effect (exec_filterIntervalExpiry n s) ?_
    rw [filterExpiry, if_pos ⟨hmode, hrun⟩, accept_eq]

/-! ### SET_LINE (R131, R132) -/

theorem exec_setLine (tag l m e f la b : Byte) (s : State) :
    exec (.setLine tag [l, m, e, f, la, b]) s = conclude s
      (takeCommand tag 0x40 (some (withArguments (checkLine l m e f la b) storeLine)) s) := rfl

theorem modeOf_code (m : LineMode) : modeOf m.code = some m := by cases m <;> rfl
theorem edgeOf_code (e : EdgeSelect) : edgeOf e.code = some e := by cases e <;> rfl
theorem filterOf_code (f : FilterTime) : filterOf f.code = some f := by cases f <;> rfl

theorem fin4Of_natByte (n : Fin 4) : fin4Of (BitVec.ofNat 8 n.val) = some n := by
  rw [fin4Of_of_lt (by rw [BitVec.toNat_ofNat]; omega)]
  exact congrArg some (Fin.ext (Nat.mod_eq_of_lt (by omega)))

theorem fin16Of_natByte (i : Fin 16) : fin16Of (BitVec.ofNat 8 i.val) = some i := by
  rw [fin16Of_of_lt (by rw [BitVec.toNat_ofNat]; omega)]
  exact congrArg some (Fin.ext (Nat.mod_eq_of_lt (by omega)))

theorem checkLine_ok (a : LineSettings) :
    checkLine (BitVec.ofNat 8 a.line.val) a.mode.code a.edge.code a.filter.code (boolCode a.latch)
      (BitVec.ofNat 8 a.boundSlot.val) = .ok a := by
  rw [checkLine, fin4Of_natByte, modeOf_code, edgeOf_code, filterOf_code, flagOf_boolCode, fin16Of_natByte]
  rfl

theorem modeOf_of_lt {m : Byte} (h : 2 < m.toNat) : modeOf m = none := by
  rw [modeOf, if_neg (by bv_omega), if_neg (by bv_omega), if_neg (by bv_omega)]

theorem edgeOf_of_lt {e : Byte} (h : 2 < e.toNat) : edgeOf e = none := by
  rw [edgeOf, if_neg (by bv_omega), if_neg (by bv_omega), if_neg (by bv_omega)]

theorem filterOf_of_lt {f : Byte} (h : 3 < f.toNat) : filterOf f = none := by
  rw [filterOf, if_neg (by bv_omega), if_neg (by bv_omega), if_neg (by bv_omega), if_neg (by bv_omega)]

theorem modeOf_of_le {m : Byte} (h : m.toNat ≤ 2) : ∃ x, modeOf m = some x := by
  obtain rfl | rfl | rfl : m = 0 ∨ m = 1 ∨ m = 2 := by bv_omega
  all_goals exact ⟨_, rfl⟩

theorem edgeOf_of_le {e : Byte} (h : e.toNat ≤ 2) : ∃ x, edgeOf e = some x := by
  obtain rfl | rfl | rfl : e = 0 ∨ e = 1 ∨ e = 2 := by bv_omega
  all_goals exact ⟨_, rfl⟩

theorem filterOf_of_le {f : Byte} (h : f.toNat ≤ 3) : ∃ x, filterOf f = some x := by
  obtain rfl | rfl | rfl | rfl : f = 0 ∨ f = 1 ∨ f = 2 ∨ f = 3 := by bv_omega
  all_goals exact ⟨_, rfl⟩

/-- The first field out of range is the one named (R132). -/
theorem checkLine_error {l m e f la b : Byte}
    (h : 3 < l.toNat ∨ 2 < m.toNat ∨ 2 < e.toNat ∨ 3 < f.toNat ∨ 1 < la.toNat ∨ 15 < b.toNat) :
    checkLine l m e f la b = .error
      (if 3 < l.toNat then 1 else if 2 < m.toNat then 2 else if 2 < e.toNat then 3 else if 3 < f.toNat then 4
        else if 1 < la.toNat then 5 else 6) := by
  unfold checkLine
  by_cases hl : 3 < l.toNat
  · rw [if_pos hl, fin4Of_of_le hl]
    rfl
  rw [if_neg hl, fin4Of_of_lt (by omega), require_some, ok_bind]
  by_cases hm : 2 < m.toNat
  · rw [if_pos hm, modeOf_of_lt hm]
    rfl
  obtain ⟨mode, hmode⟩ := modeOf_of_le (Nat.not_lt.mp hm)
  rw [if_neg hm, hmode, require_some, ok_bind]
  by_cases he : 2 < e.toNat
  · rw [if_pos he, edgeOf_of_lt he]
    rfl
  obtain ⟨edge, hedge⟩ := edgeOf_of_le (Nat.not_lt.mp he)
  rw [if_neg he, hedge, require_some, ok_bind]
  by_cases hf : 3 < f.toNat
  · rw [if_pos hf, filterOf_of_lt hf]
    rfl
  obtain ⟨filter, hfilter⟩ := filterOf_of_le (Nat.not_lt.mp hf)
  rw [if_neg hf, hfilter, require_some, ok_bind]
  by_cases hla : 1 < la.toNat
  · rw [if_pos hla, flagOf_of_lt hla]
    rfl
  rw [if_neg hla, flagOf_of_le (Nat.not_lt.mp hla), require_some, ok_bind, fin16Of_of_le (by omega)]
  rfl

section
variable {l : TriggerLine} {a : LineSettings}

theorem applySettings_to_input (hl : l.mode ≠ .input) (ha : a.mode = .input) :
    l.applySettings a = { l.store a with filteredLevel := l.pin, filterInterval := .stopped } := by
  unfold TriggerLine.applySettings
  rw [ha]
  cases hm : l.mode with
  | input => exact absurd hm hl
  | outLatch | outWindow => rfl

theorem applySettings_to_output (hl : l.mode = .input) (ha : a.mode ≠ .input) :
    l.applySettings a = { l.store a with filterInterval := .stopped } := by
  unfold TriggerLine.applySettings
  rw [hl]
  cases hm : a.mode with
  | input => exact absurd hm ha
  | outLatch | outWindow => rfl

theorem applySettings_output (hl : l.mode ≠ .input) (ha : a.mode ≠ .input) : l.applySettings a = l.store a := by
  unfold TriggerLine.applySettings
  cases hm : l.mode with
  | input => exact absurd hm hl
  | outLatch | outWindow =>
    cases hn : a.mode with
    | input => exact absurd hn ha
    | outLatch | outWindow => rfl

theorem applySettings_input (hl : l.mode = .input) (ha : a.mode = .input) :
    l.applySettings a = if l.filter = a.filter then l.store a else (l.store a).refilter := by
  unfold TriggerLine.applySettings
  rw [hl, ha]

theorem refilter_of_stopped (h : l.filterInterval.isRunning = false) : l.refilter = l := by
  rw [TriggerLine.refilter, h, if_neg Bool.false_ne_true]

theorem refilter_restarts (h : l.filterInterval.isRunning = true) (hfilter : l.filter ≠ .us0) :
    l.refilter = { l with filterInterval := .running l.filter.micros } := by
  rw [TriggerLine.refilter, if_pos h]
  cases hf : l.filter with
  | us0 => exact absurd hf hfilter
  | us1 | us10 | us100 => rfl

theorem refilter_accepts (h : l.filterInterval.isRunning = true) (hfilter : l.filter = .us0) :
    l.refilter = l.accept := by
  rw [TriggerLine.refilter, if_pos h, hfilter]

end

/-- Settles O40: the settings are stored, and the old and the new mode decide what else moves. -/
theorem setLineStoresWithTheEffectsOfItsMode : Obligations.SetLineStoresWithTheEffectsOfItsMode := by
  constructor
  · intro tag a s hs l stored gone
    have hgone {u : TriggerLine} (h : l.applySettings a = u) : gone u := by
      subst h
      refine ends_of_ok (exec_setLine ..) hs (checkLine_ok a) ?_
      rw [storeLine, taken_line]
      rfl
    refine ⟨fun hl ha => hgone (applySettings_to_input hl ha), fun hl ha => hgone (applySettings_to_output hl ha),
      fun hl ha => hgone (applySettings_output hl ha), fun hl ha hsame => hgone ?_, fun hl ha hnew hrun hfilter => hgone ?_,
      fun hl ha hnew hrun hfilter => hgone ?_⟩
    · refine (applySettings_input hl ha).trans ?_
      rcases hsame with hsame | hstopped
      · exact if_pos hsame.symm
      · split
        · rfl
        · exact refilter_of_stopped (l := l.store a) hstopped
    · refine ((applySettings_input hl ha).trans (if_neg (Ne.symm hnew))).trans ?_
      exact refilter_restarts (l := l.store a) hrun hfilter
    · refine ((applySettings_input hl ha).trans (if_neg (Ne.symm hnew))).trans ?_
      exact (refilter_accepts (l := l.store a) hrun hfilter).trans (accept_eq _)
  · exact fun tag l m e f la b s hs hout => ends_of_error (exec_setLine ..) hs (checkLine_error hout)

end Sys2Proof.Machine
end

section
/-! The statements about the arbiter, the notification unit's offer and the covered rows, settled. -/

namespace Sys2Proof.Machine

/-! ### The arbiter (R111, R118, R122) -/

section
variable {s : State} {p : Fin 4}

/-- Four control lines begun in a row let the departure work go first. -/
theorem arbiterChoice_departureFirst {l : EgressLine} (hoffer : (s.port p).departureOffer = some l)
    (hcount : (s.port p).controlCount = 4) : arbiterChoice s p = some (.departure l) := by
  rw [arbiterChoice, hoffer, if_pos hcount]
  rfl

/-- In every other case the control lines come before the departure work. -/
theorem arbiterChoice_controlFirst (h : (s.port p).departureOffer = none ∨ (s.port p).controlCount ≠ 4) :
    arbiterChoice s p = ((s.responses.head?.map Source.response).or (s.notify.offer.map Source.notification)).or
      ((s.port p).departureOffer.map .departure) := by
  unfold arbiterChoice
  dsimp only
  split
  · rename_i hcount
    rw [h.resolve_right (not_not_intro hcount), Option.map_none, Option.none_or, Option.or_none]
  · rfl

/-- With no control line waiting the departure work is all there is. -/
theorem arbiterChoice_of_no_control (hresponses : s.responses = []) (hoffer : s.notify.offer = none) :
    arbiterChoice s p = (s.port p).departureOffer.map .departure := by
  unfold arbiterChoice
  dsimp only
  rw [hresponses, hoffer]
  split
  · exact Option.or_none
  · exact Option.none_or

theorem nextSource_mgmt (s : State) : nextSource s s.mgmt = arbiterChoice s s.mgmt := if_pos rfl

end

/-- The lowest stream of a set is the first whose bit is set (R118). -/
theorem lowestStream_eq {set : BitVec 16} {id : BitVec 4} (hid : set.getLsbD id.toNat = true)
    (hlower : ∀ j : BitVec 4, j < id → set.getLsbD j.toNat = false) : lowestStream set = some id := by
  have hset : set ≠ 0 := by
    rintro rfl
    simp at hid
  obtain ⟨j, hj⟩ := exists_lowestStream hset
  unfold lowestStream at hj ⊢
  obtain ⟨i, hfound, hi⟩ := Option.map_eq_some_iff.mp hj
  rw [hfound, Option.map_some]
  obtain ⟨hbit, before, after, hsplit, hbefore⟩ := List.find?_eq_some_iff_append.mp hfound
  have hnumber : (BitVec.ofNat 4 i.val).toNat = i.val := by rw [BitVec.toNat_ofNat]; omega
  rcases lt_trichotomy i.val id.toNat with hlt | heq | hgt
  · have hclear := hlower (BitVec.ofNat 4 i.val) (by rw [BitVec.lt_def, hnumber]; exact hlt)
    rw [hnumber, hbit] at hclear
    cases hclear
  · exact congrArg some (BitVec.eq_of_toNat_eq (hnumber.trans heq))
  · have hmem : (⟨id.toNat, id.isLt⟩ : Fin 16) ∈ before := by
      have hsorted := List.pairwise_lt_finRange 16
      have hall := List.mem_finRange (⟨id.toNat, id.isLt⟩ : Fin 16)
      rw [hsplit] at hsorted hall
      rcases List.mem_append.mp hall with hmem | hmem
      · exact hmem
      · have hlater : (i : Fin 16) ≤ ⟨id.toNat, id.isLt⟩ := by
          rcases List.mem_cons.mp hmem with heq | hmem
          · exact heq.ge
          · exact ((List.pairwise_cons.mp (List.pairwise_append.mp hsorted).2.1).1 _ hmem).le
        exact absurd (Fin.le_def.mp hlater) (Nat.not_le.mpr hgt)
    have hclear := hbefore _ hmem
    rw [hid] at hclear
    cases hclear

theorem departureOffer_recovering {q : Port} (hstate : q.state = .recovering) :
    q.departureOffer = (lowestStream q.openSet).map .abandonedClose := if_pos hstate

theorem min_four (n : Nat) : min (n + 1) 4 = if n < 4 then n + 1 else 4 := by
  split <;> omega

/-- Settles O16: each rule of the arbiter where it applies, and what the beginning of a line does to its port. -/
theorem arbiterTakesTheFirstRuleThatApplies : Obligations.ArbiterTakesTheFirstRuleThatApplies := by
  refine ⟨fun s l hoffer hcount => ?_, fun s r rest hfirst hresponses => ?_, fun s o hfirst hresponses hoffer => ?_,
    fun s hresponses hoffer => ?_, fun s p hp => if_neg hp, fun q hstate => if_neg hstate, fun q id hstate hid hlower => ?_,
    fun q hstate hset => ?_, mayBegin_iff, fun s p => rfl, fun s l r => ⟨rfl, rfl⟩, fun q line => ?_⟩
  · rw [nextSource_mgmt, arbiterChoice_departureFirst hoffer hcount]
  · rw [nextSource_mgmt, arbiterChoice_controlFirst hfirst, hresponses]
    rfl
  · rw [nextSource_mgmt, arbiterChoice_controlFirst hfirst, hresponses, hoffer]
    rfl
  · rw [nextSource_mgmt, arbiterChoice_of_no_control hresponses hoffer]
  · rw [departureOffer_recovering hstate, lowestStream_eq hid hlower]
    rfl
  · rw [departureOffer_recovering hstate, hset]
    rfl
  · refine ⟨fun r => rfl, fun id => rfl, fun r => ?_, fun o => ?_⟩
    · simp only [Port.sending, Source.fromQueue, Source.countAfter, min_four, Bool.false_eq_true, if_false]
    · simp only [Port.sending, Source.fromQueue, Source.countAfter, min_four, Bool.false_eq_true, if_false]

/-! ### The offer of the notification unit (R159 to R161) -/

theorem find?_map {α β : Type} (p : α → Bool) (f : α → β) (l : List α) :
    (l.find? p).map f = ((l.filter p).map f).head? := by
  rw [List.head?_map, List.head?_filter]

/-- The due entries of a priority in order, and the pending ones while another may be sent. -/
theorem dueEntry_eq (n : NotifyUnit) (p : Priority) : n.dueEntry p =
    ((n.sent.filter fun e => e.due && !e.inTransmission && e.base.priority == p).map Offer.again).head? :=
  find?_map ..

theorem pendingEntry_eq (n : NotifyUnit) (p : Priority) : n.pendingEntry p =
    (if n.sent.length < 8 then (n.pending.filter fun e => e.priority == p).map Offer.first else []).head? := by
  unfold NotifyUnit.pendingEntry
  split
  · exact find?_map ..
  · rfl

section
variable {n : NotifyUnit} {p : Priority}

theorem priority_of_due {x : SentEntry} (h : n.dueEntry p = some (.again x)) : x.base.priority = p := by
  obtain ⟨y, hy, hxy⟩ := Option.map_eq_some_iff.mp h
  obtain rfl := Offer.again.inj hxy
  have hfound := List.find?_some hy
  simp only [Bool.and_eq_true, beq_iff_eq] at hfound
  exact hfound.2

theorem priority_of_pending {x : PendingEntry} (h : n.pendingEntry p = some (.first x)) : x.priority = p := by
  unfold NotifyUnit.pendingEntry at h
  split at h
  · obtain ⟨y, hy, hxy⟩ := Option.map_eq_some_iff.mp h
    obtain rfl := Offer.first.inj hxy
    simpa using List.find?_some hy
  · cases h

theorem dueEntry_ne_first {x : PendingEntry} : n.dueEntry p ≠ some (.first x) := fun h => by
  obtain ⟨y, -, hxy⟩ := Option.map_eq_some_iff.mp h
  cases hxy

theorem pendingEntry_ne_again {x : SentEntry} : n.pendingEntry p ≠ some (.again x) := fun h => by
  unfold NotifyUnit.pendingEntry at h
  split at h
  · obtain ⟨y, -, hxy⟩ := Option.map_eq_some_iff.mp h
    cases hxy
  · cases h

end

/-- While an URGENT entry is unacknowledged only URGENT entries are on offer (R159, condition 4). -/
theorem offer_of_urgentSent {n : NotifyUnit} {e : SentEntry} (he : e ∈ n.sent) (hurgent : e.base.priority = .urgent)
    {o : Offer} (h : n.offer = some o) : n.dueEntry .urgent = some o ∨ n.pendingEntry .urgent = some o := by
  have hsent : n.urgentSent = true := List.any_eq_true.mpr ⟨e, he, by simp [hurgent]⟩
  unfold NotifyUnit.offer at h
  rw [hsent] at h
  split at h
  · cases h
  · rcases Option.or_eq_some_iff.mp h with hdue | ⟨-, hrest⟩
    · exact .inl hdue
    · simp only [if_true, Option.or_none] at hrest
      exact .inr hrest

/-- Settles O17: the offer is the head of the eligible entries in their order. -/
theorem offerIsTheFirstEligibleEntry : Obligations.OfferIsTheFirstEligibleEntry := by
  refine ⟨fun n => ?_, fun n e he hurgent => ⟨fun x hx => ?_, fun x hx => ?_⟩,
    fun n before after e hpending hnew => ?_, fun n older newer e hsent hunique => ?_, fun s p e => ⟨rfl, rfl⟩⟩
  · dsimp only
    unfold NotifyUnit.offer NotifyUnit.urgentSent
    simp only [dueEntry_eq, pendingEntry_eq, List.head?_append, apply_ite List.head?, List.head?_nil, Option.or_assoc]
  · rcases offer_of_urgentSent he hurgent hx with h | h
    · exact absurd h dueEntry_ne_first
    · exact priority_of_pending h
  · rcases offer_of_urgentSent he hurgent hx with h | h
    · exact priority_of_due h
    · exact absurd h pendingEntry_ne_again
  · have herase : n.pending.erase e = before ++ after := by
      rw [hpending, List.erase_append_right _ hnew, List.erase_cons_head]
    simp only [NotifyUnit.begin, herase, NotifyUnit.firstSent]
  · have hmap := map_ite_of_only (fun x : SentEntry => x.sequence = e.sequence)
      (fun x => { x with due := false, inTransmission := true }) (before := older) (after := newer) rfl hunique
    simp only [NotifyUnit.begin, hsent, hmap]

/-! ### Covered rows (R73) -/

/-- The rows of a height, counted in steps from zero. -/
theorem lt_ceilDiv_iff {k height d : Nat} (hd : 0 < d) : k < ceilDiv height d ↔ k * d < height := by
  rw [ceilDiv, Nat.lt_iff_add_one_le, Nat.le_div_iff_mul_le hd, Nat.add_mul, Nat.one_mul]
  omega

/-- Settles O19: the covered rows are counted from the top row in steps. -/
theorem coveredRowsAreNumberedFromZero : Obligations.CoveredRowsAreNumberedFromZero := by
  intro e number he c
  obtain ⟨⟨hheight, hfit⟩, -, -⟩ := he
  have hstep := columnStep_pos e.rowStep
  have hcount (k : Nat) : k < c.expectedRows ↔ k * e.rowStep.toNat < e.height := lt_ceilDiv_iff hstep
  have hrows : 1 ≤ c.expectedRows := (hcount 0).mpr (by omega)
  have hlast : (c.expectedRows - 1) * e.rowStep.toNat < e.height := (hcount _).mp (by omega)
  refine ⟨fun r => ?_, fun k hk => ?_, hrows, rfl, ?_⟩
  · have hcovers : c.covers r = true ↔ (e.topRow ≤ r ∧ r < e.topRow + e.height) ∧
        e.rowStep.toNat ∣ r - e.topRow := by
      simp only [WindowContext.covers, Bool.and_eq_true, decide_eq_true_eq, beq_iff_eq, ← Nat.dvd_iff_mod_eq_zero]
      rfl
    rw [hcovers]
    constructor
    · rintro ⟨⟨htop, hbottom⟩, k, hk⟩
      rw [Nat.mul_comm] at hk
      exact ⟨k, (hcount k).mpr (by omega), by omega⟩
    · rintro ⟨k, hk, rfl⟩
      have hk := (hcount k).mp hk
      exact ⟨⟨by omega, by omega⟩, by rw [Nat.add_sub_cancel_left]; exact Nat.dvd_mul_left ..⟩
  · change (e.topRow + k * e.rowStep.toNat - e.topRow) / e.rowStep.toNat = k
    rw [Nat.add_sub_cancel_left, Nat.mul_div_cancel _ hstep]
  · change e.topRow + (c.expectedRows - 1) * e.rowStep.toNat ≤ 4095
    omega

end Sys2Proof.Machine
end

section
/-! The statement about the state after power-up, settled. -/

namespace Sys2Proof.Machine

theorem reset_port : ∀ p : Fin 4, (State.reset.port p).queue = [] ∧ (State.reset.port p).transmission = none ∧
    (State.reset.port p).openSet = 0 ∧ (State.reset.port p).holding = 0 := by decide

/-- After power-up no port holds a record. -/
theorem reset_departures (p : Fin 4) : (State.reset.port p).departures = [] := by
  obtain ⟨hqueue, hline, -, -⟩ := reset_port p
  rw [Port.departures, hqueue, Port.departing, hline, List.append_nil]

theorem reset_heldBlocks (p : Fin 4) : (State.reset.port p).heldBlocks = [] := by
  rw [Port.heldBlocks, reset_departures, List.flatMap_nil]

theorem reset_storeLaw : State.reset.StoreLaw := by
  refine ⟨?_, fun p => ?_⟩
  · rw [State.allHeld, List.flatMap_eq_nil_iff.mpr fun p _ => reset_heldBlocks p, List.append_nil]
    exact .refl allBlocks
  · obtain ⟨-, -, -, hholding⟩ := reset_port p
    rw [reset_heldBlocks, hholding, List.length_nil]

theorem reset_context (i : Fin 16) : (State.reset.slot i).context = none := by
  rw [reset_slot]
  rfl

theorem reset_idle : State.reset.idle := fun i => by
  rw [reset_slot]
  rfl

theorem reset_windowLaw : State.reset.WindowLaw := by
  have hreservations : ∀ p : Fin 4, (State.reset.port p).reservations = 0 := by decide
  refine ⟨fun p => ?_, fun p => ?_, fun _ => reset_idle⟩
  · rw [hreservations, activeOn_of_idle reset_idle]
  · rw [hreservations, Port.queued, reset_departures, List.length_nil]
    omega

/-- No slot is ACTIVE, no stream is open and no record waits. -/
theorem reset_streamLaw : State.reset.StreamLaw := by
  refine ⟨fun i => by rw [reset_context]; rfl, fun p id => ?_⟩
  obtain ⟨hqueue, hline, hset, -⟩ := reset_port p
  have hcounted : (State.reset.port p).counted = [] := by
    rw [Port.counted, hline, reset_departures, hqueue, ite_self]
  have hends : followStream ((State.reset.port p).openSet.getLsbD id.toNat)
      (streamMarks id (State.reset.port p).counted) = some false := by
    rw [hset, hcounted]
    exact congrArg some BitVec.getLsbD_zero
  refine ⟨by rw [hends]; exact nofun, fun _ => iff_of_false (by rw [hends]; exact nofun) ?_⟩
  rintro ⟨i, hi⟩
  rw [reset_context] at hi
  cases hi

theorem reset_tableLaw : State.reset.TableLaw :=
  ⟨nofun, bankFault_of_disabled fun i => congrArg Entry.enable (reset_entry 0 i), nofun⟩

theorem reset_entryLaw : State.reset.EntryLaw := fun b i => by
  rw [reset_entry]
  decide

theorem reset_slotLaw : State.reset.SlotLaw := fun i => by
  rw [reset_slot, State.governing, reset_entry]
  decide

theorem reset_counterLaw : State.reset.CounterLaw :=
  ((counted_iff _).mp ⟨lawful_reset, counts_reset, fun i => by rw [reset_slot]; exact ⟨Nat.zero_le _, Nat.zero_le _⟩,
    by unfold Port.Counts; decide⟩).2

/-- RESTARTED waits on the management port, whose hold timer runs. -/
theorem reset_portLaw : State.reset.PortLaw := by decide +kernel

theorem reset_lineLaw : State.reset.LineLaw := by decide +kernel

theorem reset_notifyLaw : State.reset.notify.Law := by decide +kernel

/-- Settles O6: each law of the state after power-up. -/
theorem resetIsSafe : Obligations.ResetIsSafe :=
  ⟨reset_storeLaw, reset_windowLaw, reset_streamLaw, reset_tableLaw, reset_entryLaw, reset_slotLaw, lawful_reset,
    reset_counterLaw, reset_portLaw, Nat.zero_le _, reset_notifyLaw, reset_lineLaw, rfl, rfl⟩

end Sys2Proof.Machine
end

section
/-! The statements about the lines the part sends and the snapshots of READ_STATUS, settled. -/

namespace Sys2Proof.Machine

/-! ### Lines (Tables 1.6, 1.7, 1.10 and 1.16) -/

theorem priority_code (p : Priority) : p.code = if p = .urgent then 1 else 0 := by cases p <;> rfl

theorem subject_code (sub : Subject) : sub.code = match sub with
    | .none => 0xff
    | .slot i => BitVec.ofNat 8 i.val
    | .port p => 0x20 + BitVec.ofNat 8 p.val := by
  cases sub with
  | none | slot => rfl
  | port p => exact BitVec.ofNat_add ..

theorem notification_payload (n : Notification) : n.payload =
    [n.sequence, n.base.cls.code, if n.base.priority = .urgent then 1 else 0, BitVec.ofNat 8 n.base.repeatCount,
      match n.base.subject with
      | .none => 0xff
      | .slot i => BitVec.ofNat 8 i.val
      | .port p => 0x20 + BitVec.ofNat 8 p.val,
      BitVec.ofNat 8 n.lossCount] ++ halfBytes n.base.frameNumber ++ halfBytes n.base.detail := by
  rw [Notification.payload, priority_code, subject_code]
  rfl

/-- A CLOSE carries its code, and CLIPPED and DEFICIENT in bits 0 and 1 (Table 1.7). -/
theorem closePayload_eq (wn : Half) (code : CompletionCode) (clipped deficient : Bool) (rows : Nat) :
    closePayload wn code clipped deficient rows =
      halfBytes wn ++ [match code with
        | .complete => 0
        | .cut => 1
        | .aborted => 2
        | .abandoned => (3 : Byte),
        BitVec.ofNat 8 (clipped.toNat + 2 * deficient.toNat)] ++ halfBytes (BitVec.ofNat 16 rows) := by
  have hflags : closeFlags clipped deficient = BitVec.ofNat 8 (clipped.toNat + 2 * deficient.toNat) := by
    cases clipped <;> cases deficient <;> rfl
  have hcode : code.code = match code with
      | .complete => 0
      | .cut => 1
      | .aborted => 2
      | .abandoned => (3 : Byte) := by cases code <;> rfl
  rw [closePayload, hflags, hcode]
  rfl

/-- Of a received sample the low depth bits count (R6). -/
theorem sampleValue_toNat (depth : BitVec 2) (x : Half) : (sampleValue depth x).toNat =
    x.toNat % (if depth = 0 then 2 ^ 8 else if depth = 1 then 2 ^ 10 else if depth = 2 then 2 ^ 12 else 2 ^ 16) := by
  have hmask (k : Nat) (mask : Half) (hmask : mask.toNat = 2 ^ k - 1) : (x &&& mask).toNat = x.toNat % 2 ^ k := by
    rw [BitVec.toNat_and, hmask, Nat.and_two_pow_sub_one_eq_mod]
  unfold sampleValue
  split_ifs
  · exact hmask 8 _ rfl
  · exact hmask 10 _ rfl
  · exact hmask 12 _ rfl
  · exact (Nat.mod_eq_of_lt x.isLt).symm

/-- Settles O28: headers and payloads field by field. -/
theorem linesSentAreLaidOutAsTheirTables : Obligations.LinesSentAreLaidOutAsTheirTables := by
  refine ⟨fun r => rfl, notification_payload, rfl, rfl, fun stream depth wn fn width rows i b => ⟨rfl, rfl⟩,
    fun stream wn code clipped deficient rows => ⟨closePayload_eq .., rfl⟩, fun stream => ⟨rfl, rfl⟩,
    fun stream depth row count blocks => ⟨rfl, rfl⟩, fun stream count blocks => ⟨rfl, rfl⟩, fun r => ⟨rfl, ?_⟩,
    fun n => ⟨rfl, ?_⟩, fun depth samples => rfl, sampleValue_toNat⟩
  · simp only [EgressLine.header, controlHeader, Response.payload, List.length_append, List.length_cons, List.length_nil]
  · rfl

/-! ### Snapshots (Table 1.17) -/

/-- Of equal parts laid out in order, the one at a number. -/
theorem take_drop_flatMap_finRange {n k : Nat} {α : Type} {f : Fin n → List α} (hf : ∀ i, (f i).length = k)
    (i : Fin n) : (((List.finRange n).flatMap f).drop (k * i.val)).take k = f i := by
  obtain ⟨before, after, hsplit⟩ := List.append_of_mem (List.mem_finRange i)
  have hbefore : before.length = i.val := by
    have hlt : before.length < (List.finRange n).length := by rw [hsplit]; simp
    have hget : (List.finRange n)[before.length] = i := by simp [hsplit]
    rw [← hget, List.getElem_finRange]
    rfl
  have hlength (l : List (Fin n)) : (l.flatMap f).length = k * l.length := by
    rw [List.length_flatMap, List.map_congr_left fun j _ => hf j, List.map_const', List.sum_replicate, smul_eq_mul,
      Nat.mul_comm]
  rw [hsplit, List.flatMap_append, List.flatMap_cons, List.drop_left' (by rw [hlength, hbefore]),
    List.take_left' (hf i)]

theorem slotSnapshot_eq (t : Slot) : slotSnapshot t =
    [match t.state with
      | .off => 0
      | .unarmed => 1
      | .ready => 2
      | .active _ => (3 : Byte),
      BitVec.ofNat 8 t.armCount, BitVec.ofNat 8 t.holdOff] ++ halfBytes t.frameNumber
      ++ halfBytes (BitVec.ofNat 16 t.opened) ++ halfBytes (BitVec.ofNat 16 t.skipped) := by
  unfold slotSnapshot SlotState.code
  cases t.state <;> rfl

theorem lineSnapshot_eq (s : State) (l : TriggerLine) : lineSnapshot s l =
    [match l.mode with
      | .input => 0
      | .outLatch => 1
      | .outWindow => (2 : Byte),
      match l.edge with
      | .rising => 0
      | .falling => 1
      | .both => 2,
      match l.filter with
      | .us0 => 0
      | .us1 => 1
      | .us10 => 2
      | .us100 => 3,
      if l.latch then 1 else 0, BitVec.ofNat 8 l.boundSlot.val,
      if (match l.mode with
        | .input => l.filteredLevel
        | .outLatch => l.latch
        | .outWindow => (s.slot l.boundSlot).state.isActive) then 1 else 0] := by
  unfold lineSnapshot State.reportedLevel State.drivenLevel LineMode.code EdgeSelect.code FilterTime.code boolCode
  cases l.mode <;> cases l.edge <;> cases l.filter <;> rfl

theorem ingressSnapshot_eq (s : State) : ingressSnapshot s =
    [match s.receiver.state with
      | .noSignal => 0
      | .hunting => 1
      | .betweenFrames => 2
      | .inFrame => (3 : Byte)] ++ halfBytes s.receiver.frameNumber ++ [BitVec.ofNat 8 s.receiver.depth.toNat]
      ++ natHalf s.receiver.expectedRow
      ++ [BitVec.ofNat 8 s.receiver.infoCount, BitVec.ofNat 8 s.receiver.silenceTimeout]
      ++ natHalf s.receiver.framesTaken ++ natHalf s.receiver.framesAborted ++ natHalf s.receiver.lineFaults
      ++ natHalf s.receiver.strayLines := by
  have hdepth : s.receiver.depth.setWidth 8 = BitVec.ofNat 8 s.receiver.depth.toNat := by
    apply BitVec.eq_of_toNat_eq
    rw [BitVec.toNat_setWidth, BitVec.toNat_ofNat]
  unfold ingressSnapshot
  dsimp only
  rw [hdepth]
  cases s.receiver.state <;> rfl

theorem portSnapshot_eq (p : Fin 4) (s : State) : portSnapshot p s =
    [match (s.port p).state with
      | .disabled => 0
      | .idle => 1
      | .sending => 2
      | .held => 3
      | .stalled => 4
      | .recovering => (5 : Byte),
      if (s.port p).enable then 1 else 0] ++ natHalf (s.port p).ceiling ++ natHalf (s.port p).holdTimeout
      ++ [BitVec.ofNat 8 (s.port p).queued, BitVec.ofNat 8 (s.port p).reservations] ++ natHalf (s.port p).holding
      ++ halfBytes (s.port p).openSet ++ natHalf (s.port p).recordsSent ++ natHalf (s.port p).rowsDropped
      ++ natHalf s.freeList.length := by
  unfold portSnapshot
  dsimp only
  simp only [ports_eq_port]
  cases (s.port p).state <;> rfl

theorem tableSnapshot_eq (s : State) : tableSnapshot s =
    [BitVec.ofNat 8 s.activeBank.val, (s.pendingBank.map fun b => BitVec.ofNat 8 b.val).getD 0xff] := by
  unfold tableSnapshot
  cases s.pendingBank <;> rfl

/-- The settings of the classes follow the seven fields of the unit, in the order of their codes. -/
theorem notifySnapshot_class (wasSilent : Bool) (s : State) (c : EventClass) :
    ((notifySnapshot wasSilent s).drop (5 + 2 * c.code.toNat)).take 2 =
      [boolCode (s.notify.setting c).enable, (s.notify.setting c).priority.code] := by
  have hclass := take_drop_flatMap_finRange (k := 2)
    (f := fun c : Fin 11 => [boolCode s.notify.settings[c].enable, s.notify.settings[c].priority.code])
    (fun _ => rfl) c.index
  rw [code_toNat, show 5 + 2 * (c.index.val + 1) = 7 + 2 * c.index.val by omega, ← List.drop_drop]
  exact hclass

/-- Settles O29: each snapshot is its fields in order; equal parts follow one another. -/
theorem snapshotsAreLaidOutAsTheirTable : Obligations.SnapshotsAreLaidOutAsTheirTable := by
  intro s
  refine ⟨ingressSnapshot_eq s, tableSnapshot_eq s, fun i => ?_, fun n => ?_, ?_,
    fun wasSilent => ⟨rfl, fun c => ?_⟩, fun p => portSnapshot_eq p s⟩
  · exact (take_drop_flatMap_finRange (f := fun i => slotSnapshot s.slots[i]) (fun _ => rfl) i).trans (slotSnapshot_eq _)
  · have hlines : ((List.finRange 4).flatMap fun n => lineSnapshot s s.lines[n]).length = 24 := by
      rw [List.length_flatMap]
      rfl
    have hline := take_drop_flatMap_finRange (k := 6) (f := fun n => lineSnapshot s s.lines[n]) (fun _ => rfl) n
    rw [linesSnapshot, List.drop_append_of_le_length (by omega), List.take_append_of_le_length ?_]
    · exact hline.trans (lineSnapshot_eq s _)
    · rw [List.length_drop, hlines]
      omega
  · rw [linesSnapshot, List.drop_left' (by rw [List.length_flatMap]; rfl)]
    rfl
  · rw [notifySnapshot_class, priority_code]
    rfl

end Sys2Proof.Machine
end

section
/-! The statements about the line protocol, settled: lines as they are sent, judged and decoded. -/

namespace Sys2Proof.Machine

/-! ### The header (R3, R4) -/

theorem kindCode_toNat (k : LineKind) : (kindCode k).toNat = match k with
    | .openKind => 0
    | .pixelKind => 1
    | .infoKind => 2
    | .closeKind => 3
    | .controlKind => 4 := by cases k <;> rfl

/-- The six fields from the most significant bit down, as a number. -/
theorem headerBits_toNat (h : LineHeader) : (headerBits h).toNat =
    (((((kindCode h.kind).toNat * 16 + h.stream.toNat) * 4 + h.depth.toNat) * 8192 + h.count.toNat) * 4096 +
      h.row.toNat) * 64 := by
  unfold headerBits
  simp only [toNat_append_add]
  rfl

/-- Header bytes 0 to 4 by arithmetic. -/
theorem bytesOfBits_headerBits (h : LineHeader) : bytesOfBits (headerBits h) =
    [BitVec.ofNat 8 (32 * (kindCode h.kind).toNat + 2 * h.stream.toNat + h.depth.toNat / 2),
      BitVec.ofNat 8 (128 * (h.depth.toNat % 2) + h.count.toNat / 64),
      BitVec.ofNat 8 (4 * (h.count.toNat % 64) + h.row.toNat / 1024),
      BitVec.ofNat 8 (h.row.toNat / 4 % 256),
      BitVec.ofNat 8 (64 * (h.row.toNat % 4))] := by
  have hbits := headerBits_toNat h
  have hstream := h.stream.isLt
  have hdepth := h.depth.isLt
  have hcount := h.count.isLt
  have hrow := h.row.isLt
  have hbyte {start n : Nat} (hn : (headerBits h).toNat / 2 ^ start % 2 ^ 8 = n % 2 ^ 8) :
      (headerBits h).extractLsb' start 8 = BitVec.ofNat 8 n :=
    BitVec.eq_of_toNat_eq (by rw [toNat_extract, BitVec.toNat_ofNat, hn])
  unfold bytesOfBits
  rw [hbyte, hbyte, hbyte, hbyte, hbyte]
  all_goals rw [hbits]; omega

theorem checkOf_five (b0 b1 b2 b3 b4 : Byte) :
    checkOf [b0, b1, b2, b3, b4] = ~~~(b0 ^^^ b1 ^^^ b2 ^^^ b3 ^^^ b4) := by
  simp [checkOf]

theorem bitsOfBytes_bytes (b : BitVec 40) : bitsOfBytes (b.extractLsb' 32 8) (b.extractLsb' 24 8)
    (b.extractLsb' 16 8) (b.extractLsb' 8 8) (b.extractLsb' 0 8) = b := by
  apply BitVec.eq_of_toNat_eq
  simp only [bitsOfBytes, toNat_append_add, toNat_extract]
  have := b.isLt
  omega

theorem kindOfCode_kindCode (k : LineKind) : kindOfCode (kindCode k) = some k := by cases k <;> rfl

/-- A receiver reads the header that was sent. -/
theorem headerOfBits_headerBits (h : LineHeader) : headerOfBits (headerBits h) = some h := by
  have hbits := headerBits_toNat h
  have hkind := (kindCode h.kind).isLt
  have hstream := h.stream.isLt
  have hdepth := h.depth.isLt
  have hcount := h.count.isLt
  have hrow := h.row.isLt
  have hfield {start len : Nat} {x : BitVec len} (hx : (headerBits h).toNat / 2 ^ start % 2 ^ len = x.toNat) :
      (headerBits h).extractLsb' start len = x :=
    BitVec.eq_of_toNat_eq (by rw [toNat_extract, hx])
  unfold headerOfBits countField
  rw [hfield (x := kindCode h.kind) (by rw [hbits]; omega), kindOfCode_kindCode,
    hfield (x := h.stream) (by rw [hbits]; omega), hfield (x := h.depth) (by rw [hbits]; omega),
    hfield (x := h.count) (by rw [hbits]; omega), hfield (x := h.row) (by rw [hbits]; omega)]

/-! ### The line (R1, R7, R8) -/

/-- A line whose payload has the length of its header, its count in range, is judged sound. -/
theorem judgeLine_lineBytes {h : LineHeader} {payload : List Byte} (hlength : payloadLength h = payload.length)
    (hcount : h.count.toNat ≤ 4096) : judgeLine (lineBytes h payload) = .sound h payload := by
  have hbody : judgeBody h (payload ++ halfBytes (trailerOf payload)) = .sound h payload := by
    rw [judgeBody, if_pos (by rw [List.length_append, hlength]; rfl)]
    dsimp only
    rw [hlength, List.drop_left, List.take_left, if_pos rfl]
  simp only [lineBytes, headerBytes, bytesOfBits, List.cons_append, List.nil_append, judgeLine, bitsOfBytes_bytes,
    headerOfBits_headerBits, ne_eq, not_true_eq_false, if_false, hbody, Nat.not_lt.mpr hcount]

/-- A byte above eight zero bits. -/
theorem append_zero_eq_shiftLeft (b : Byte) : (b ++ (0 : BitVec 8) : Half) = b.setWidth 16 <<< 8 := by
  apply BitVec.eq_of_toNat_eq
  rw [toNat_append_add, BitVec.toNat_shiftLeft, BitVec.toNat_setWidth, Nat.shiftLeft_eq]
  have := b.isLt
  simp only [show (0 : BitVec 8).toNat = 0 from rfl]
  omega

theorem crcShift_eq (v : Half) : crcShift v = if 32768 ≤ v.toNat then (v <<< 1) ^^^ 0x1021 else v <<< 1 := by
  unfold crcShift
  rw [BitVec.msb_eq_decide]
  exact if_congr decide_eq_true_iff rfl rfl

/-- Settles O5: header and trailer by arithmetic; a receiver reads back what was sent. -/
theorem sentLinesAreJudgedSound : Obligations.SentLinesAreJudgedSound := by
  refine ⟨fun h => ?_, rfl, fun payload b => ?_, fun l => rfl, fun l hlength hcount => judgeLine_lineBytes hlength hcount⟩
  · have hbytes := bytesOfBits_headerBits h
    rw [kindCode_toNat] at hbytes
    rw [headerBytes, hbytes, checkOf_five]
    rfl
  · rw [trailerOf, List.foldl_append, List.foldl_cons, List.foldl_nil, crcByte, append_zero_eq_shiftLeft]
    simp only [crcShift_eq]
    rfl

/-! ### Decoding (R26 to R30, R138, R139) -/

/-- A line of a kind other than PIXEL is decoded by its header and payload. -/
theorem decodeLine_plainLine {kind : LineKind} (hkind : kind ≠ .pixelKind) (stream : BitVec 4) (depth : BitVec 2)
    {payload : List Byte} (hfits : payload.length ≤ 4096) :
    decodeLine (plainLine kind stream depth payload) =
      soundLine ⟨kind, stream, depth, BitVec.ofNat 13 payload.length, 0⟩ payload := by
  have hcount : (BitVec.ofNat 13 payload.length).toNat = payload.length := by
    rw [BitVec.toNat_ofNat, Nat.mod_eq_of_lt (by omega)]
  have hlength : payloadLength ⟨kind, stream, depth, BitVec.ofNat 13 payload.length, 0⟩ = payload.length := by
    cases kind with
    | pixelKind => exact absurd rfl hkind
    | openKind | infoKind | closeKind | controlKind => exact hcount
  rw [decodeLine, plainLine, judgeLine_lineBytes hlength (by rw [hcount]; exact hfits)]

/-- A command line is decoded by its code. -/
theorem decodeLine_commandLine (tag code : Byte) {args : List Byte} (hfits : argsFit args = true) :
    decodeLine (commandLine tag code args) = commandOf tag code args := by
  have hlength : (tag :: code :: args).length ≤ 4096 := by
    simp only [argsFit, decide_eq_true_eq] at hfits
    simp only [List.length_cons]
    omega
  rw [commandLine, decodeLine_plainLine (kind := .controlKind) (by decide) 0 0 hlength]
  rfl

theorem commandOf_of_not_mem (tag : Byte) {code : Byte} (args : List Byte) (h : code ∉ commandCodes) :
    commandOf tag code args = .unknownCommand tag code args := by
  simp only [commandCodes, List.mem_cons, List.not_mem_nil, or_false, not_or] at h
  obtain ⟨h1, h2, h3, h4, h5, h6, h7, h8, h9, h10, h11, h12, h13, h14, h15⟩ := h
  simp only [commandOf, h1, h2, h3, h4, h5, h6, h7, h8, h9, h10, h11, h12, h13, h14, h15, if_false]

theorem controlOf_short {payload : List Byte} (h : payload.length < 2) :
    controlOf 0 payload = .shortCommandLine payload := by
  match payload with
  | [] => rfl
  | [_] => rfl
  | _ :: _ :: rest => exact absurd h (by simp)

/-! ### Samples (R6) -/

theorem pairSamples_flatMap (samples : List Half) : pairSamples (samples.flatMap halfBytes) = samples := by
  induction samples with
  | nil => rfl
  | cons x samples ih =>
    rw [List.flatMap_cons, halfBytes, List.cons_append, List.cons_append, List.nil_append, pairSamples, ih, halfOf,
      halfOf_bytes]

/-- A sample that fits in a byte is read back from it. -/
theorem halfOf_zero_byte {x : Half} (h : x.toNat < 256) : halfOf 0 (x.extractLsb' 0 8) = x := by
  apply BitVec.eq_of_toNat_eq
  rw [halfOf, toNat_append_add, toNat_extract, show (0 : Byte).toNat = 0 from rfl, Nat.pow_zero, Nat.div_one]
  omega

/-- Samples that travel are read back as they were packed. -/
theorem unpackSamples_packSamples {depth : BitVec 2} {samples : List Half} (h : samplesFit depth samples = true) :
    unpackSamples depth (packSamples depth samples) = samples := by
  unfold unpackSamples packSamples
  by_cases hdepth : depth = 0
  · subst hdepth
    simp only [samplesFit, bne_self_eq_false, Bool.false_or, Bool.and_eq_true, List.all_eq_true,
      decide_eq_true_eq] at h
    have hone : sampleToBytes 0 = fun x : Half => [x.extractLsb' 0 8] := rfl
    rw [if_pos rfl, hone, ← List.map_eq_flatMap, List.map_map]
    exact (List.map_congr_left fun x hx => halfOf_zero_byte (h.2 x hx)).trans (List.map_id' samples)
  · have htwo : sampleToBytes depth = halfBytes := funext fun x => if_neg hdepth
    rw [if_neg hdepth, htwo, pairSamples_flatMap]

theorem decodeLine_pixel {depth : BitVec 2} (row : BitVec 12) {samples : List Half}
    (h : samplesFit depth samples = true) :
    decodeLine (lineBytes ⟨.pixelKind, 0, depth, BitVec.ofNat 13 samples.length, row⟩ (packSamples depth samples)) =
      .ingressPixel depth row ⟨samples, []⟩ := by
  have hfits : samples.length ≤ 4096 := by
    simp only [samplesFit, Bool.and_eq_true, decide_eq_true_eq] at h
    exact h.1
  have hcount : (BitVec.ofNat 13 samples.length).toNat = samples.length := by
    rw [BitVec.toNat_ofNat, Nat.mod_eq_of_lt (by omega)]
  have hlength : payloadLength ⟨.pixelKind, 0, depth, BitVec.ofNat 13 samples.length, row⟩ =
      (packSamples depth samples).length := by
    rw [length_packSamples]
    exact congrArg (· * sampleBytes depth) hcount
  rw [decodeLine, judgeLine_lineBytes hlength (by rw [hcount]; exact hfits)]
  exact congrArg (fun l => Instr.ingressPixel depth row ⟨l, []⟩) (unpackSamples_packSamples h)

theorem lineAlone_eq_some {during : List (Fin 16 × RowEvent)} {line bytes : List Byte}
    (h : lineAlone during line = some bytes) : during = [] ∧ bytes = line := by
  unfold lineAlone at h
  split at h
  · rename_i hempty
    exact ⟨List.isEmpty_iff.mp hempty, (Option.some.inj h).symm⟩
  · cases h

/-- Settles O4: a line of each kind is judged sound and read back; a command line by its code. -/
theorem decodeOfEncodedLineGivesTheCommand : Obligations.DecodeOfEncodedLineGivesTheCommand := by
  intro c bytes hformed hencoded
  cases c with
  | ingressOpen depth payload =>
    obtain rfl := Option.some.inj hencoded
    exact decodeLine_plainLine (kind := .openKind) (by decide) 0 depth (of_decide_eq_true hformed)
  | ingressPixel depth row content =>
    obtain ⟨samples, during⟩ := content
    obtain ⟨rfl, rfl⟩ := lineAlone_eq_some hencoded
    exact decodeLine_pixel row hformed
  | ingressInfo content =>
    obtain ⟨payload, during⟩ := content
    obtain ⟨rfl, rfl⟩ := lineAlone_eq_some hencoded
    exact decodeLine_plainLine (kind := .infoKind) (by decide) 0 0 (of_decide_eq_true hformed)
  | ingressClose payload =>
    obtain rfl := Option.some.inj hencoded
    exact decodeLine_plainLine (kind := .closeKind) (by decide) 0 0 (of_decide_eq_true hformed)
  | strayControlLine channel payload =>
    obtain rfl := Option.some.inj hencoded
    obtain ⟨hchannel, hfits⟩ := Bool.and_eq_true_iff.mp hformed
    refine (decodeLine_plainLine (kind := .controlKind) (by decide) channel 0 (of_decide_eq_true hfits)).trans ?_
    exact if_pos (bne_iff_ne.mp hchannel)
  | shortCommandLine payload =>
    obtain rfl := Option.some.inj hencoded
    have hshort : payload.length < 2 := of_decide_eq_true hformed
    exact (decodeLine_plainLine (kind := .controlKind) (by decide) 0 0 (by omega)).trans (controlOf_short hshort)
  | unknownCommand tag code args =>
    obtain rfl := Option.some.inj hencoded
    obtain ⟨hcode, hfits⟩ := Bool.and_eq_true_iff.mp hformed
    exact (decodeLine_commandLine tag code hfits).trans (commandOf_of_not_mem tag args (by simpa using hcode))
  | echo tag args | writeEntry tag args | readEntry tag args | selectBank tag args | arm tag args | disarm tag args
  | setPort tag args | setLine tag args | setIngress tag args | setEvent tag args | setNotify tag args | ack tag args
  | readStatus tag args | clearCounters tag args | restart tag args =>
    obtain rfl := Option.some.inj hencoded
    exact decodeLine_commandLine tag _ hformed
  | hardReset | lockGained | lockLost | headerFault | trailerFailure | frameSilenceExpiry | readyRise | readyFall
  | holdTimerExpiry | recoveryHoldExpiry | transmissionComplete | retryTimerExpiry | triggerPinChange
  | filterIntervalExpiry | triggerEdge => cases hencoded

end Sys2Proof.Machine
end
